-- ==== Sys2Proof/Word.lean ====
section
/-! DEFINITION. The machine's word and the bit strings its instructions are made of (spec/00_scope.md R8). -/

namespace Sys2Proof

/-- A byte: every register, every memory cell and every operand value (R8, R40). -/
abbrev Byte := BitVec 8

/-- A bit string, the most significant bit first (R45, R60). -/
abbrev Bits := List Bool

end Sys2Proof
end

