-- ==== Sys2Proof/Config.lean ====
section
/-! DEFINITION. What stands outside the core: the port environment `PortEnv` of spec/47_port_io.md R203, and its
answer as a FREE VALUE (log entry 4). The parameters for which the model takes the spec's default (OPTABLE,
MEM_READ_SPEED, EXTRA_COST) are definitions of Decode.lean and Machine/Timing.lean. -/

namespace Sys2Proof

/-- The direction of a transmit request (R203). -/
inductive Direction where
  | send
  | recv
  deriving DecidableEq, Repr, Inhabited

/-- A transmit request as the core makes it, `PortEnv.transmit(direction, port, payload, timestamp)` (R203).
A `recv` request has no payload: its list is empty. -/
structure PortRequest where
  direction : Direction
  port : Byte
  payload : List Byte
  timestamp : Nat
  deriving DecidableEq, Repr, Inhabited

/-- The environment's answer (R203). `success` carries the wait in cycles and, for a `recv`, the payload; a `send`
does not read the payload of its answer. -/
inductive PortAnswer where
  | success (wait : Nat) (payload : List Byte)
  | timeout
  | retry
  | defer
  deriving DecidableEq, Repr, Inhabited

/-- FREE VALUE (R203, U10; log entry 4): the environment's answer to the `n`-th request. It has no body: a claim that
holds of the model holds for every answer. DESIGN CHOICE, safe. -/
opaque Config.portAnswer : Nat → PortRequest → PortAnswer

end Sys2Proof
end

