-- ==== Sys2Proof/Syntax/Operand.lean ====
section
/-! DEFINITION. Registers, operand kinds and decoded operands (spec/30_encoding.md R63 to R69, R85). -/

namespace Sys2Proof

/-- The four general registers `r0` to `r3` (spec/10_state.md R11). -/
inductive GReg where
  | r0
  | r1
  | r2
  | r3
  deriving DecidableEq, Repr

/-- The six registers an operand may name (R12). -/
inductive Reg where
  | gp (g : GReg)
  | flags
  | pc
  deriving DecidableEq, Repr

/-- A decoded operand of kind `R` (R66): a register, or `NA_invalid` for the reserved codes 2 and 3 (R77). -/
inductive RegOp where
  | reg (r : Reg)
  | naInvalid
  deriving DecidableEq, Repr

/-- A decoded operand of kind `M`: the four addressing modes (R67). Only general registers address (R68). -/
inductive MemOp where
  | abs (off : Byte)
  | ind (ra : GReg)
  | off (off : Byte) (ra : GReg)
  | rr (ra rb : GReg)
  deriving DecidableEq, Repr

/-- A decoded operand of kind `RM` (R69). -/
inductive RMOp where
  | reg (r : RegOp)
  | mem (m : MemOp)
  deriving DecidableEq, Repr

/-- The operand kinds of an opcode-table row (R63); `NA` is the absence of an entry. -/
inductive Kind where
  | I
  | Rel
  | R
  | M
  | RM
  deriving DecidableEq, Repr

/-- One operand field together with its kind: what stands in the bit stream (R63). -/
inductive Arg where
  | I (v : Byte)
  | Rel (v : Byte)
  | R (r : RegOp)
  | M (m : MemOp)
  | RM (o : RMOp)
  deriving DecidableEq, Repr

/-- A decoded operand as the operand resolver sees it (R85). -/
inductive Operand where
  | na
  | naInvalid
  | imm (v : Byte)
  | rel (v : Byte)
  | reg (r : Reg)
  | mem (m : MemOp)
  deriving DecidableEq, Repr

end Sys2Proof
end

