-- ==== Sys2Proof/Syntax.lean ====
section
/-! DEFINITION. The instructions: one constructor per row of spec/opcode_table.json (spec/30_encoding.md R75). The suffix
of a constructor names the operand kinds of its row where a mnemonic owns several rows. -/

namespace Sys2Proof

/-- A decoded instruction (R75, R85). -/
inductive Instr where
  /-- opcode 2: `add` R, I (R145) -/
  | addRI (dst : RegOp) (v : Byte)
  /-- opcode 3: `add` RM, RM (R145) -/
  | addRM (dst src : RMOp)
  /-- opcode 4: `mov` R, I (R140) -/
  | movRI (dst : RegOp) (v : Byte)
  /-- opcode 5: `mov` RM, RM (R140) -/
  | movRM (dst src : RMOp)
  /-- opcode 6: `sub` R, I (R146) -/
  | subRI (dst : RegOp) (v : Byte)
  /-- opcode 7: `sub` RM, RM (R146) -/
  | subRM (dst src : RMOp)
  /-- opcode 8: `mul` R, I (R147) -/
  | mulRI (dst : RegOp) (v : Byte)
  /-- opcode 9: `mul` RM, RM (R147) -/
  | mulRM (dst src : RMOp)
  /-- opcode 10: `sdiv` R, I (R167) -/
  | sdivRI (dst : RegOp) (v : Byte)
  /-- opcode 11: `sdiv` RM, RM (R167) -/
  | sdivRM (dst src : RMOp)
  /-- opcode 12: `udiv` R, I (R165) -/
  | udivRI (dst : RegOp) (v : Byte)
  /-- opcode 13: `udiv` RM, RM (R165) -/
  | udivRM (dst src : RMOp)
  /-- opcode 14: `smod` R, I (R168) -/
  | smodRI (dst : RegOp) (v : Byte)
  /-- opcode 15: `smod` RM, RM (R168) -/
  | smodRM (dst src : RMOp)
  /-- opcode 16: `umod` R, I (R166) -/
  | umodRI (dst : RegOp) (v : Byte)
  /-- opcode 17: `umod` RM, RM (R166) -/
  | umodRM (dst src : RMOp)
  /-- opcode 18: `cmp` R, I (R148) -/
  | cmpRI (dst : RegOp) (v : Byte)
  /-- opcode 19: `cmp` RM, RM (R148) -/
  | cmpRM (dst src : RMOp)
  /-- opcode 20: `shl` R, I (R160) -/
  | shlRI (dst : RegOp) (v : Byte)
  /-- opcode 21: `shl` RM, RM (R160) -/
  | shlRM (dst src : RMOp)
  /-- opcode 22: `shr` R, I (R161) -/
  | shrRI (dst : RegOp) (v : Byte)
  /-- opcode 23: `shr` RM, RM (R161) -/
  | shrRM (dst src : RMOp)
  /-- opcode 24: `xor` R, I (R157) -/
  | xorRI (dst : RegOp) (v : Byte)
  /-- opcode 25: `xor` RM, RM (R157) -/
  | xorRM (dst src : RMOp)
  /-- opcode 26: `or` R, I (R156) -/
  | orRI (dst : RegOp) (v : Byte)
  /-- opcode 27: `or` RM, RM (R156) -/
  | orRM (dst src : RMOp)
  /-- opcode 28: `and` R, I (R155) -/
  | andRI (dst : RegOp) (v : Byte)
  /-- opcode 29: `and` RM, RM (R155) -/
  | andRM (dst src : RMOp)
  /-- opcode 30: `not` RM (R158) -/
  | not (dst : RMOp)
  /-- opcode 31: `neg` RM (R149) -/
  | neg (dst : RMOp)
  /-- opcode 32: `hlt` none (R192) -/
  | hlt
  /-- opcode 33: `jmp` Rel (R176) -/
  | jmp (rel : Byte)
  /-- opcode 34: `jz` Rel (R177) -/
  | jz (rel : Byte)
  /-- opcode 35: `jnz` Rel (R178) -/
  | jnz (rel : Byte)
  /-- opcode 36: `js` Rel (R179) -/
  | js (rel : Byte)
  /-- opcode 37: `jns` Rel (R180) -/
  | jns (rel : Byte)
  /-- opcode 38: `jo` Rel (R181) -/
  | jo (rel : Byte)
  /-- opcode 39: `jno` Rel (R182) -/
  | jno (rel : Byte)
  /-- opcode 40: `jsl` Rel (R183) -/
  | jsl (rel : Byte)
  /-- opcode 41: `jsge` Rel (R184) -/
  | jsge (rel : Byte)
  /-- opcode 42: `jsle` Rel (R185) -/
  | jsle (rel : Byte)
  /-- opcode 43: `jsg` Rel (R186) -/
  | jsg (rel : Byte)
  /-- opcode 44: `jul` Rel (R187) -/
  | jul (rel : Byte)
  /-- opcode 45: `juge` Rel (R188) -/
  | juge (rel : Byte)
  /-- opcode 46: `jule` Rel (R189) -/
  | jule (rel : Byte)
  /-- opcode 47: `jug` Rel (R190) -/
  | jug (rel : Byte)
  /-- opcode 48: `send` R, R, M (R201) -/
  | sendRRM (port size : RegOp) (win : MemOp)
  /-- opcode 49: `send` R, I, M (R201) -/
  | sendRIM (port : RegOp) (size : Byte) (win : MemOp)
  /-- opcode 50: `send` I, R, M (R201) -/
  | sendIRM (port : Byte) (size : RegOp) (win : MemOp)
  /-- opcode 51: `send` I, I, M (R201) -/
  | sendIIM (port size : Byte) (win : MemOp)
  /-- opcode 52: `recv` R, M (R202) -/
  | recvRM (port : RegOp) (win : MemOp)
  /-- opcode 53: `recv` I, M (R202) -/
  | recvIM (port : Byte) (win : MemOp)
  deriving DecidableEq, Repr

end Sys2Proof
end

