-- ==== Sys2Proof/WellFormed.lean ====
section
/-! DEFINITION. Well-formed instructions: no operand is the invalid operand `NA_invalid` (spec/30_encoding.md R77). An
ill-formed instruction still decodes and still runs: it fails (spec/40_execution_and_operands.md R113). -/

namespace Sys2Proof

/-- The register field held no reserved code (R77). -/
def RegOp.valid : RegOp → Bool
  | .reg _ => true
  | .naInvalid => false

/-- The register-or-memory field held no reserved register code (R77). -/
def RMOp.valid : RMOp → Bool
  | .reg r => r.valid
  | .mem _ => true

/-- No operand is `NA_invalid` (R77, R113). -/
def Instr.wellFormed : Instr → Bool
  | .addRI d _ | .movRI d _ | .subRI d _ | .mulRI d _ | .sdivRI d _ | .udivRI d _ | .smodRI d _ | .umodRI d _
  | .cmpRI d _ | .shlRI d _ | .shrRI d _ | .xorRI d _ | .orRI d _ | .andRI d _ => d.valid
  | .addRM d b | .movRM d b | .subRM d b | .mulRM d b | .sdivRM d b | .udivRM d b | .smodRM d b | .umodRM d b
  | .cmpRM d b | .shlRM d b | .shrRM d b | .xorRM d b | .orRM d b | .andRM d b => d.valid && b.valid
  | .not d | .neg d => d.valid
  | .hlt => true
  | .jmp _ | .jz _ | .jnz _ | .js _ | .jns _ | .jo _ | .jno _ | .jsl _ | .jsge _ | .jsle _ | .jsg _ | .jul _
  | .juge _ | .jule _ | .jug _ => true
  | .sendRRM p z _ => p.valid && z.valid
  | .sendRIM p _ _ => p.valid
  | .sendIRM _ z _ => z.valid
  | .sendIIM _ _ _ => true
  | .recvRM p _ => p.valid
  | .recvIM _ _ => true

end Sys2Proof
end

