-- ==== Sys2Proof/Decode.lean ====
section
/-! DEFINITION. The instruction codec (spec/30_encoding.md): the opcode table, `Decode` (R70), `Encode` (R73), the length
of an instruction (R72) and the encoder's row selection (R74). -/

namespace Sys2Proof

/-! ### The bit stream (R45, R61) -/

/-- The bits of a byte, bit 7 first (R61). -/
def byteBits (b : Byte) : Bits :=
  [b.getLsbD 7, b.getLsbD 6, b.getLsbD 5, b.getLsbD 4, b.getLsbD 3, b.getLsbD 2, b.getLsbD 1, b.getLsbD 0]

/-- The bits of consecutive bytes, the byte at the lowest address first (R61). -/
def bytesBits (bs : List Byte) : Bits := bs.flatMap byteBits

/-- The number whose binary digits, the most significant first, are the bits. -/
def bitsNat (bs : Bits) : Nat := bs.foldl (fun n b => 2 * n + b.toNat) 0

/-- `n` bits from the front of the stream; past its end the stream reads 0 (`FetchBits`, R61). -/
def frontBits (n : Nat) (bs : Bits) : Nat := bitsNat ((bs ++ List.replicate n false).take n)

/-- The `w` low bits of a number, the most significant first. -/
def natBits : Nat → Nat → Bits
  | 0, _ => []
  | w + 1, n => n.testBit w :: natBits w n

/-- `n` bytes that hold the bits, the last byte padded with 0 (R71, R73). -/
def packBytes : Nat → Bits → List Byte
  | 0, _ => []
  | n + 1, bs => BitVec.ofNat 8 (frontBits 8 bs) :: packBytes n (bs.drop 8)

/-! ### Operand fields (R63 to R69) -/

/-- The general register of a 2-bit index (R68). -/
def decodeGReg : Nat → GReg
  | 0 => .r0
  | 1 => .r1
  | 2 => .r2
  | _ => .r3

/-- The 2-bit index of a general register (R68). -/
def GReg.index : GReg → Nat
  | .r0 => 0
  | .r1 => 1
  | .r2 => 2
  | .r3 => 3

/-- `DecodeReg` on a 3-bit register code (R66, R70); the codes 2 and 3 are reserved (R77). -/
def decodeReg : Nat → RegOp
  | 0 => .reg .flags
  | 1 => .reg .pc
  | 4 => .reg (.gp .r0)
  | 5 => .reg (.gp .r1)
  | 6 => .reg (.gp .r2)
  | 7 => .reg (.gp .r3)
  | _ => .naInvalid

/-- The 3-bit code of a register operand: class bit and index (R66). `NA_invalid` has two codes; the encoder writes 2
(log entry 15). -/
def RegOp.code : RegOp → Nat
  | .reg .flags => 0
  | .reg .pc => 1
  | .reg (.gp g) => 4 + g.index
  | .naInvalid => 2

/-- `DecodeMem`: the 2-bit sub-tag and the sub-fields of its mode (R67, R70), with the rest of the stream. -/
def decodeMem (bs : Bits) : MemOp × Bits :=
  let tag := frontBits 2 bs
  let t := bs.drop 2
  if tag = 0 then (.abs (BitVec.ofNat 8 (frontBits 8 t)), t.drop 8)
  else if tag = 1 then (.ind (decodeGReg (frontBits 2 t)), t.drop 2)
  else if tag = 2 then
    (.off (BitVec.ofNat 8 (frontBits 8 t)) (decodeGReg (frontBits 2 (t.drop 8))), t.drop 10)
  else (.rr (decodeGReg (frontBits 2 t)) (decodeGReg (frontBits 2 (t.drop 2))), t.drop 4)

/-- The field of a memory operand (R67). -/
def MemOp.bits : MemOp → Bits
  | .abs o => natBits 2 0 ++ natBits 8 o.toNat
  | .ind a => natBits 2 1 ++ natBits 2 a.index
  | .off o a => natBits 2 2 ++ (natBits 8 o.toNat ++ natBits 2 a.index)
  | .rr a b => natBits 2 3 ++ (natBits 2 a.index ++ natBits 2 b.index)

/-- One operand field of the given kind from the front of the stream, with the rest of the stream (R63, R70). -/
def decodeArg (k : Kind) (bs : Bits) : Arg × Bits :=
  match k with
  | .I => (.I (BitVec.ofNat 8 (frontBits 8 bs)), bs.drop 8)
  | .Rel => (.Rel (BitVec.ofNat 8 (frontBits 8 bs)), bs.drop 8)
  | .R => (.R (decodeReg (frontBits 3 bs)), bs.drop 3)
  | .M => (.M (decodeMem bs).1, (decodeMem bs).2)
  | .RM =>
    if frontBits 1 bs = 0 then (.RM (.reg (decodeReg (frontBits 3 (bs.drop 1)))), bs.drop 4)
    else (.RM (.mem (decodeMem (bs.drop 1)).1), (decodeMem (bs.drop 1)).2)

/-- The bits of an operand field (R63, R69). -/
def Arg.bits : Arg → Bits
  | .I v => natBits 8 v.toNat
  | .Rel v => natBits 8 v.toNat
  | .R r => natBits 3 r.code
  | .M m => m.bits
  | .RM (.reg r) => natBits 1 0 ++ natBits 3 r.code
  | .RM (.mem m) => natBits 1 1 ++ m.bits

/-- The width of a memory field (R67). -/
def MemOp.width : MemOp → Nat
  | .abs _ => 10
  | .ind _ => 4
  | .off _ _ => 12
  | .rr _ _ => 6

/-- The width of an operand field (R63). -/
def Arg.width : Arg → Nat
  | .I _ => 8
  | .Rel _ => 8
  | .R _ => 3
  | .M m => m.width
  | .RM (.reg _) => 4
  | .RM (.mem m) => 1 + m.width

/-- The kind of an operand field. -/
def Arg.kind : Arg → Kind
  | .I _ => .I
  | .Rel _ => .Rel
  | .R _ => .R
  | .M _ => .M
  | .RM _ => .RM

/-- The register operand as the resolver sees it (R85). -/
def RegOp.operand : RegOp → Operand
  | .reg r => .reg r
  | .naInvalid => .naInvalid

/-- The register-or-memory operand as the resolver sees it (R85). -/
def RMOp.operand : RMOp → Operand
  | .reg r => r.operand
  | .mem m => .mem m

/-- An operand field as the resolver sees it (R85). -/
def Arg.operand : Arg → Operand
  | .I v => .imm v
  | .Rel v => .rel v
  | .R r => r.operand
  | .M m => .mem m
  | .RM o => o.operand

/-- The operand fields of the given kinds in order, operand 0 first (R63, R70). -/
def decodeArgs : List Kind → Bits → List Arg
  | [], _ => []
  | k :: ks, bs => (decodeArg k bs).1 :: decodeArgs ks (decodeArg k bs).2

/-! ### The opcode table (R75) -/

/-- A row of the opcode table: a mnemonic and its operand kinds (R63, R75). -/
structure OpRow where
  mnemonic : String
  kinds : List Kind
  deriving DecidableEq, Repr

/-- `OPTABLE`, the spec's default (R7, R75; D1, D2; log entry 7); `none` is an unassigned slot (R76). -/
def opRow : Nat → Option OpRow
  | 2 => some ⟨"add", [.R, .I]⟩
  | 3 => some ⟨"add", [.RM, .RM]⟩
  | 4 => some ⟨"mov", [.R, .I]⟩
  | 5 => some ⟨"mov", [.RM, .RM]⟩
  | 6 => some ⟨"sub", [.R, .I]⟩
  | 7 => some ⟨"sub", [.RM, .RM]⟩
  | 8 => some ⟨"mul", [.R, .I]⟩
  | 9 => some ⟨"mul", [.RM, .RM]⟩
  | 10 => some ⟨"sdiv", [.R, .I]⟩
  | 11 => some ⟨"sdiv", [.RM, .RM]⟩
  | 12 => some ⟨"udiv", [.R, .I]⟩
  | 13 => some ⟨"udiv", [.RM, .RM]⟩
  | 14 => some ⟨"smod", [.R, .I]⟩
  | 15 => some ⟨"smod", [.RM, .RM]⟩
  | 16 => some ⟨"umod", [.R, .I]⟩
  | 17 => some ⟨"umod", [.RM, .RM]⟩
  | 18 => some ⟨"cmp", [.R, .I]⟩
  | 19 => some ⟨"cmp", [.RM, .RM]⟩
  | 20 => some ⟨"shl", [.R, .I]⟩
  | 21 => some ⟨"shl", [.RM, .RM]⟩
  | 22 => some ⟨"shr", [.R, .I]⟩
  | 23 => some ⟨"shr", [.RM, .RM]⟩
  | 24 => some ⟨"xor", [.R, .I]⟩
  | 25 => some ⟨"xor", [.RM, .RM]⟩
  | 26 => some ⟨"or", [.R, .I]⟩
  | 27 => some ⟨"or", [.RM, .RM]⟩
  | 28 => some ⟨"and", [.R, .I]⟩
  | 29 => some ⟨"and", [.RM, .RM]⟩
  | 30 => some ⟨"not", [.RM]⟩
  | 31 => some ⟨"neg", [.RM]⟩
  | 32 => some ⟨"hlt", []⟩
  | 33 => some ⟨"jmp", [.Rel]⟩
  | 34 => some ⟨"jz", [.Rel]⟩
  | 35 => some ⟨"jnz", [.Rel]⟩
  | 36 => some ⟨"js", [.Rel]⟩
  | 37 => some ⟨"jns", [.Rel]⟩
  | 38 => some ⟨"jo", [.Rel]⟩
  | 39 => some ⟨"jno", [.Rel]⟩
  | 40 => some ⟨"jsl", [.Rel]⟩
  | 41 => some ⟨"jsge", [.Rel]⟩
  | 42 => some ⟨"jsle", [.Rel]⟩
  | 43 => some ⟨"jsg", [.Rel]⟩
  | 44 => some ⟨"jul", [.Rel]⟩
  | 45 => some ⟨"juge", [.Rel]⟩
  | 46 => some ⟨"jule", [.Rel]⟩
  | 47 => some ⟨"jug", [.Rel]⟩
  | 48 => some ⟨"send", [.R, .R, .M]⟩
  | 49 => some ⟨"send", [.R, .I, .M]⟩
  | 50 => some ⟨"send", [.I, .R, .M]⟩
  | 51 => some ⟨"send", [.I, .I, .M]⟩
  | 52 => some ⟨"recv", [.R, .M]⟩
  | 53 => some ⟨"recv", [.I, .M]⟩
  | _ => none

def ofNone (c : Instr) : List Arg → Option Instr
  | [] => some c
  | _ => none

def ofRel (c : Byte → Instr) : List Arg → Option Instr
  | [.Rel v] => some (c v)
  | _ => none

def ofRI (c : RegOp → Byte → Instr) : List Arg → Option Instr
  | [.R d, .I v] => some (c d v)
  | _ => none

def ofRM (c : RMOp → Instr) : List Arg → Option Instr
  | [.RM d] => some (c d)
  | _ => none

def ofRMRM (c : RMOp → RMOp → Instr) : List Arg → Option Instr
  | [.RM d, .RM b] => some (c d b)
  | _ => none

def ofRRM (c : RegOp → RegOp → MemOp → Instr) : List Arg → Option Instr
  | [.R p, .R z, .M m] => some (c p z m)
  | _ => none

def ofRIM (c : RegOp → Byte → MemOp → Instr) : List Arg → Option Instr
  | [.R p, .I z, .M m] => some (c p z m)
  | _ => none

def ofIRM (c : Byte → RegOp → MemOp → Instr) : List Arg → Option Instr
  | [.I p, .R z, .M m] => some (c p z m)
  | _ => none

def ofIIM (c : Byte → Byte → MemOp → Instr) : List Arg → Option Instr
  | [.I p, .I z, .M m] => some (c p z m)
  | _ => none

def ofRegM (c : RegOp → MemOp → Instr) : List Arg → Option Instr
  | [.R p, .M m] => some (c p m)
  | _ => none

def ofIM (c : Byte → MemOp → Instr) : List Arg → Option Instr
  | [.I p, .M m] => some (c p m)
  | _ => none

/-- The instruction of an opcode and its operand fields (R75, R85). -/
def buildInstr (opcode : Nat) (as : List Arg) : Option Instr :=
  match opcode with
  | 2 => ofRI .addRI as
  | 3 => ofRMRM .addRM as
  | 4 => ofRI .movRI as
  | 5 => ofRMRM .movRM as
  | 6 => ofRI .subRI as
  | 7 => ofRMRM .subRM as
  | 8 => ofRI .mulRI as
  | 9 => ofRMRM .mulRM as
  | 10 => ofRI .sdivRI as
  | 11 => ofRMRM .sdivRM as
  | 12 => ofRI .udivRI as
  | 13 => ofRMRM .udivRM as
  | 14 => ofRI .smodRI as
  | 15 => ofRMRM .smodRM as
  | 16 => ofRI .umodRI as
  | 17 => ofRMRM .umodRM as
  | 18 => ofRI .cmpRI as
  | 19 => ofRMRM .cmpRM as
  | 20 => ofRI .shlRI as
  | 21 => ofRMRM .shlRM as
  | 22 => ofRI .shrRI as
  | 23 => ofRMRM .shrRM as
  | 24 => ofRI .xorRI as
  | 25 => ofRMRM .xorRM as
  | 26 => ofRI .orRI as
  | 27 => ofRMRM .orRM as
  | 28 => ofRI .andRI as
  | 29 => ofRMRM .andRM as
  | 30 => ofRM .not as
  | 31 => ofRM .neg as
  | 32 => ofNone .hlt as
  | 33 => ofRel .jmp as
  | 34 => ofRel .jz as
  | 35 => ofRel .jnz as
  | 36 => ofRel .js as
  | 37 => ofRel .jns as
  | 38 => ofRel .jo as
  | 39 => ofRel .jno as
  | 40 => ofRel .jsl as
  | 41 => ofRel .jsge as
  | 42 => ofRel .jsle as
  | 43 => ofRel .jsg as
  | 44 => ofRel .jul as
  | 45 => ofRel .juge as
  | 46 => ofRel .jule as
  | 47 => ofRel .jug as
  | 48 => ofRRM .sendRRM as
  | 49 => ofRIM .sendRIM as
  | 50 => ofIRM .sendIRM as
  | 51 => ofIIM .sendIIM as
  | 52 => ofRegM .recvRM as
  | 53 => ofIM .recvIM as
  | _ => none

/-- The opcode of an instruction (R75). -/
def Instr.opcode : Instr → Nat
  | .addRI _ _ => 2
  | .addRM _ _ => 3
  | .movRI _ _ => 4
  | .movRM _ _ => 5
  | .subRI _ _ => 6
  | .subRM _ _ => 7
  | .mulRI _ _ => 8
  | .mulRM _ _ => 9
  | .sdivRI _ _ => 10
  | .sdivRM _ _ => 11
  | .udivRI _ _ => 12
  | .udivRM _ _ => 13
  | .smodRI _ _ => 14
  | .smodRM _ _ => 15
  | .umodRI _ _ => 16
  | .umodRM _ _ => 17
  | .cmpRI _ _ => 18
  | .cmpRM _ _ => 19
  | .shlRI _ _ => 20
  | .shlRM _ _ => 21
  | .shrRI _ _ => 22
  | .shrRM _ _ => 23
  | .xorRI _ _ => 24
  | .xorRM _ _ => 25
  | .orRI _ _ => 26
  | .orRM _ _ => 27
  | .andRI _ _ => 28
  | .andRM _ _ => 29
  | .not _ => 30
  | .neg _ => 31
  | .hlt => 32
  | .jmp _ => 33
  | .jz _ => 34
  | .jnz _ => 35
  | .js _ => 36
  | .jns _ => 37
  | .jo _ => 38
  | .jno _ => 39
  | .jsl _ => 40
  | .jsge _ => 41
  | .jsle _ => 42
  | .jsg _ => 43
  | .jul _ => 44
  | .juge _ => 45
  | .jule _ => 46
  | .jug _ => 47
  | .sendRRM _ _ _ => 48
  | .sendRIM _ _ _ => 49
  | .sendIRM _ _ _ => 50
  | .sendIIM _ _ _ => 51
  | .recvRM _ _ => 52
  | .recvIM _ _ => 53

/-- The operand fields of an instruction, operand 0 first (R63). -/
def Instr.args : Instr → List Arg
  | .addRI d v | .movRI d v | .subRI d v | .mulRI d v | .sdivRI d v | .udivRI d v | .smodRI d v | .umodRI d v
  | .cmpRI d v | .shlRI d v | .shrRI d v | .xorRI d v | .orRI d v | .andRI d v => [.R d, .I v]
  | .addRM d b | .movRM d b | .subRM d b | .mulRM d b | .sdivRM d b | .udivRM d b | .smodRM d b | .umodRM d b
  | .cmpRM d b | .shlRM d b | .shrRM d b | .xorRM d b | .orRM d b | .andRM d b => [.RM d, .RM b]
  | .not d | .neg d => [.RM d]
  | .hlt => []
  | .jmp rel | .jz rel | .jnz rel | .js rel | .jns rel | .jo rel | .jno rel | .jsl rel | .jsge rel | .jsle rel
  | .jsg rel | .jul rel | .juge rel | .jule rel | .jug rel => [.Rel rel]
  | .sendRRM p z m => [.R p, .R z, .M m]
  | .sendRIM p z m => [.R p, .I z, .M m]
  | .sendIRM p z m => [.I p, .R z, .M m]
  | .sendIIM p z m => [.I p, .I z, .M m]
  | .recvRM p m => [.R p, .M m]
  | .recvIM p m => [.I p, .M m]

/-- The mnemonic of an instruction: its row's (R75). -/
def Instr.mnemonic (i : Instr) : String := ((opRow i.opcode).map OpRow.mnemonic).getD ""

/-- The operand kinds of an instruction: its row's (R75). -/
def Instr.kinds (i : Instr) : List Kind := ((opRow i.opcode).map OpRow.kinds).getD []

/-- `operand[0..2]` of the decoded state: absent operands are the explicit `NA` (R70, R85). -/
def Instr.operands (i : Instr) : List Operand :=
  (i.args.map Arg.operand ++ [Operand.na, Operand.na, Operand.na]).take 3

/-! ### Decode, encode, length (R70 to R73) -/

/-- The opcode field: instruction bits 0 to 5, that is bits 7 to 2 of the first byte (R62). -/
def opcodeField (bs : Bits) : Nat := frontBits 6 bs

/-- `Decode` on the instruction's bits (R70); `none` is the sentinel `opcode = -1` of an unassigned slot (R76). Padding
bits are not read (R71). -/
def decodeBits (bs : Bits) : Option Instr :=
  match opRow (opcodeField bs) with
  | none => none
  | some row => buildInstr (opcodeField bs) (decodeArgs row.kinds (bs.drop 6))

/-- `Decode` on the bytes from the instruction's address on (R70). -/
def decode (bytes : List Byte) : Option Instr := decodeBits (bytesBits bytes)

/-- The bits of an instruction without padding (R60, R72). -/
def Instr.bitLength (i : Instr) : Nat := 6 + (i.args.map Arg.width).sum

/-- The length in bytes, `ceil(bits / 8)` (R72). -/
def Instr.length (i : Instr) : Nat := (i.bitLength + 7) / 8

/-- The opcode and the operand fields as one bit string (R60, R73). -/
def encodeBits (i : Instr) : Bits := natBits 6 i.opcode ++ i.args.flatMap Arg.bits

/-- `Encode`: the bytes of an instruction, padded with zero bits (R73). -/
def encode (i : Instr) : List Byte := packBytes i.length (encodeBits i)

/-- The longest instruction has 5 bytes (R72). -/
def maxLength : Nat := 5

/-- The bytes of an instruction whose bits, numbered as spec/opcode_table.json numbers them (the first byte is bits 7 to
0), are the low `nbits` bits of `w`; every bit above is 0. -/
def tableBytes (nbits w : Nat) : List Byte :=
  (List.range maxLength).map fun k => BitVec.ofNat 8 ((w % 2 ^ nbits) >>> (8 * k))

/-- The instruction the decoder reads from a table word. -/
def decodeTableWord (nbits w : Nat) : Option Instr := decode (tableBytes nbits w)

/-! ### Row selection and branch displacement of the encoder (R74, R83) -/

/-- An operand as the programmer writes it: an immediate, a register or a memory operand (R74). -/
def Operand.admittedBy : Operand → Kind → Bool
  | .imm _, k => k == .I || k == .Rel
  | .rel _, k => k == .I || k == .Rel
  | .reg _, k => k == .R || k == .RM
  | .mem _, k => k == .M || k == .RM
  | .na, _ => false
  | .naInvalid, _ => false

/-- The kinds admit the written operands, one for one (R74). -/
def admits : List Kind → List Operand → Bool
  | [], [] => true
  | k :: ks, o :: os => o.admittedBy k && admits ks os
  | _, _ => false

/-- The slot's row has the mnemonic and admits the written operands (R74). -/
def rowMatches (mnemonic : String) (os : List Operand) (n : Nat) : Bool :=
  match opRow n with
  | none => false
  | some row => row.mnemonic == mnemonic && admits row.kinds os

/-- Row selection: the rows are scanned in increasing opcode number and the first match wins (R74); `none` is the
assembler's "wrong operand count/type" error. -/
def selectRow (mnemonic : String) (os : List Operand) : Option Nat :=
  (List.range 64).find? (rowMatches mnemonic os)

/-- The displacement of a jump at address `a` to `target` (R83). -/
def branchDisplacement (target a : Byte) : Byte := target - a

end Sys2Proof
end

