-- ==== Sys2Proof/Machine/State.lean ====
section
/-! DEFINITION. The state of one processor (spec/10_state.md R10), its values after `Create` (R30), and the reasons a
step can stop. -/

namespace Sys2Proof.Machine

open Sys2Proof

/-- The four general registers (R11). -/
structure Regs where
  r0 : Byte
  r1 : Byte
  r2 : Byte
  r3 : Byte
  deriving DecidableEq, Repr

/-- The status of the processor's own port operation (R22). -/
inductive MessageStatus where
  | idle
  | complete
  | sendPending
  | receivePending
  deriving DecidableEq, Repr

/-- The in-flight port-message descriptor (R22); `offset` and `size` are its payload window, `wait` its residual wait. -/
structure Message where
  status : MessageStatus
  port : Byte
  offset : Byte
  size : Byte
  timestamp : Nat
  wait : Nat
  deriving DecidableEq, Repr

/-- The debug mode (R24). -/
inductive DebugMode where
  | continue
  | pause
  deriving DecidableEq, Repr

/-- The breakpoint bits of one address (spec/60_exceptions.md R262). -/
structure Access where
  read : Bool
  write : Bool
  deriving DecidableEq, Repr

/-- Which of the four optional callbacks are set (R24). What a callback does is outside the core (R262). -/
structure Hooks where
  operation : Bool
  portConnectionChange : Bool
  breakpointChange : Bool
  debugModeChange : Bool
  deriving DecidableEq, Repr

/-- The debugger's part of the state (R24, R262). An address absent from `breakpoints` has both bits clear. -/
structure Debug where
  mode : DebugMode
  breakpoints : List (Nat × Access)
  hooks : Hooks
  deriving DecidableEq, Repr

/-- The 256 bytes of memory (R18), as the addresses whose byte is not 0, strictly rising. -/
abbrev Memory := List Host.Cell

/-- The decoded state of spec/30_encoding.md R85: opcode, row and operands are functions of `instr`. -/
structure Decoded where
  instr : Instr
  offset : Byte
  length : Nat
  deriving DecidableEq, Repr

/-- What the core gives to the outside: a transmit request (spec/47_port_io.md R203) or a call of a hook
(spec/60_exceptions.md R262). What `operation` is given the spec says (R103); what the other three are given it does not
say: the new mode, the address without its bits, and the port are the model's choice (DESIGN CHOICE, log entry 11). -/
inductive Output where
  | request (r : PortRequest)
  | operation (bytes : List Byte) (st : Decoded)
  | debugModeChange (mode : DebugMode)
  | breakpointChange (address : Byte)
  | portConnectionChange (port : Byte)
  deriving DecidableEq, Repr

/-- How one iteration of the loop of `Run` ended: the outcomes of spec/40_execution_and_operands.md R103 and the stop
conditions of spec/60_exceptions.md R250 and R264. -/
inductive RunOutcome where
  | success
  | stall
  | fail
  | invalidOpcode
  | budgetExhausted
  | paused
  deriving DecidableEq, Repr

/-- THE MODEL'S OWN: the channel to the outside. `script` holds the environment's answers decided already, oldest first;
`asked` counts the requests, and the free answer `Config.portAnswer` is applied to it once `script` is empty (R203, log
entry 4); `outputs` is what the core gave out, newest first (log entry 5). -/
structure Env where
  script : List PortAnswer
  asked : Nat
  outputs : List Output
  deriving DecidableEq, Repr

/-- The state of one processor (R10). `ports` maps a port id to the connection attached to it (R23, log entry 12). The
last two fields are the MODEL'S OWN: `outcome` says how the latest loop iteration ended (log entry 5), `env` is the
channel to the outside. -/
structure State where
  regs : Regs
  flags : Byte
  pc : Byte
  mem : Memory
  cycles : Nat
  complete : Bool
  message : Message
  ports : List (Nat × Option Nat)
  debugger : Debug
  outcome : Option RunOutcome
  env : Env
  deriving DecidableEq, Repr

/-- The reasons a step stops with a fault: none. Every stop of this machine is a state transition (spec/60_exceptions.md
R250, R254), so no constructor exists (log entry 16). -/
inductive Fault where
  deriving DecidableEq, Repr

/-- The reasons a step is refused. -/
inductive Refusal where
  /-- Raised by `exec` for a row that has no meaning yet; safe. No arm raises it. -/
  | notModelled (mnemonic : String)
  deriving DecidableEq, Repr

/-- The idle message of R30. -/
def Message.idle : Message :=
  { status := .idle, port := 0, offset := 0, size := 0, timestamp := 0, wait := 0 }

/-- No callback is set (R281). -/
def Hooks.none : Hooks :=
  { operation := false, portConnectionChange := false, breakpointChange := false, debugModeChange := false }

/-- The machine right after `Create` with the freshly zeroed image, entrypoint 0 (R30, R281; log entry 1). -/
def State.reset : State :=
  { regs := { r0 := 0, r1 := 0, r2 := 0, r3 := 0 }
    flags := 0
    pc := 0
    mem := []
    cycles := 0
    complete := false
    message := Message.idle
    ports := []
    debugger := { mode := .continue, breakpoints := [], hooks := Hooks.none }
    outcome := Option.none
    env := { script := [], asked := 0, outputs := [] } }

end Sys2Proof.Machine
end

