-- ==== Sys2Proof/Machine/Flags.lean ====
section
/-! DEFINITION. The flags byte (spec/10_state.md R14, spec/40_execution_and_operands.md R115), the result and the flags of
every operation (R116), and the conditions of the jumps (spec/46_control_transfer.md R191). -/

namespace Sys2Proof.Machine

open Sys2Proof

/-- Zero, bit 0 (R14). -/
def flagZ (f : Byte) : Bool := f.getLsbD 0

/-- Carry, bit 1 (R14). -/
def flagC (f : Byte) : Bool := f.getLsbD 1

/-- Sign, bit 2 (R14). -/
def flagS (f : Byte) : Bool := f.getLsbD 2

/-- Overflow, bit 3 (R14). -/
def flagO (f : Byte) : Bool := f.getLsbD 3

/-- Bit 7 of a byte. -/
def bit7 (v : Byte) : Bool := v.getLsbD 7

/-- `Flags4`: the flags byte of a result, a carry and an overflow; bits 7 to 4 are 0 (R115). -/
def flags4 (r : Byte) (c o : Bool) : Byte :=
  (if r = 0 then 1 else 0) ||| (if c then 2 else 0) ||| (if bit7 r then 4 else 0) ||| (if o then 8 else 0)

/-- The flags of a division by zero: O, C and Z (R115; spec/45_division.md R169). -/
def divZeroFlags : Byte := 0x0B

/-! ### Arithmetic (spec/42_arithmetic.md) -/

/-- R145. -/
def addOp (a b : Byte) : Byte × Byte :=
  let sum := a.toNat + b.toNat
  let r : Byte := BitVec.ofNat 8 sum
  (r, flags4 r (decide (sum > 255)) (bit7 a == bit7 b && bit7 r != bit7 a))

/-- R146; the flags of R148 too. -/
def subOp (a b : Byte) : Byte × Byte :=
  let r : Byte := BitVec.ofInt 8 ((a.toNat : Int) - (b.toNat : Int))
  (r, flags4 r (decide (a.toNat < b.toNat)) (bit7 a != bit7 b && bit7 r != bit7 a))

/-- R147. -/
def mulOp (a b : Byte) : Byte × Byte :=
  let p := a.toNat * b.toNat
  let r : Byte := BitVec.ofNat 8 p
  (r, flags4 r (decide (p > 255)) (decide (p > 255)))

/-- R149. -/
def negOp (a : Byte) : Byte × Byte :=
  let r : Byte := BitVec.ofInt 8 (0 - (a.toNat : Int))
  (r, flags4 r (decide (a ≠ 0)) (decide (a = 0x80)))

/-! ### Logic (spec/43_logic.md) -/

/-- Z and S from the result, C and O clear (R155 to R158). -/
def logicOp (r : Byte) : Byte × Byte := (r, flags4 r false false)

/-- R155. -/
def andOp (a b : Byte) : Byte × Byte := logicOp (a &&& b)

/-- R156. -/
def orOp (a b : Byte) : Byte × Byte := logicOp (a ||| b)

/-- R157. -/
def xorOp (a b : Byte) : Byte × Byte := logicOp (a ^^^ b)

/-- R158. -/
def notOp (a : Byte) : Byte × Byte := logicOp (BitVec.ofNat 8 (255 - a.toNat))

/-! ### Shifts (spec/44_shift.md); the count is all 8 bits of the second operand -/

/-- R160. -/
def shlOp (a cnt : Byte) : Byte × Byte :=
  let n := cnt.toNat
  let r : Byte := if n = 0 then a else if n ≤ 8 then BitVec.ofNat 8 (a.toNat * 2 ^ n) else 0
  let c := if n = 0 then false else if n ≤ 8 then a.getLsbD (8 - n) else false
  (r, flags4 r c (bit7 r != bit7 a))

/-- R161. -/
def shrOp (a cnt : Byte) : Byte × Byte :=
  let n := cnt.toNat
  let r : Byte := if n = 0 then a else if n ≤ 8 then BitVec.ofNat 8 (a.toNat / 2 ^ n) else 0
  let c := if n = 0 then false else if n ≤ 8 then a.getLsbD (n - 1) else false
  (r, flags4 r c (bit7 r != bit7 a))

/-! ### Division (spec/45_division.md); a divisor of 0 writes 0 and sets O, C and Z (R169) -/

/-- R165. -/
def udivOp (a b : Byte) : Byte × Byte :=
  if b = 0 then (0, divZeroFlags)
  else
    let r : Byte := BitVec.ofNat 8 (a.toNat / b.toNat)
    (r, flags4 r false false)

/-- R166. -/
def umodOp (a b : Byte) : Byte × Byte :=
  if b = 0 then (0, divZeroFlags)
  else
    let r : Byte := BitVec.ofNat 8 (a.toNat - b.toNat * (a.toNat / b.toNat))
    (r, flags4 r false false)

/-- R167; `Int.tdiv` rounds toward zero. -/
def sdivOp (a b : Byte) : Byte × Byte :=
  if b = 0 then (0, divZeroFlags)
  else
    let q := Int.tdiv a.toInt b.toInt
    let r : Byte := BitVec.ofInt 8 q
    (r, flags4 r false (decide (q = 128)))

/-- R168. -/
def smodOp (a b : Byte) : Byte × Byte :=
  if b = 0 then (0, divZeroFlags)
  else
    let q := Int.tdiv a.toInt b.toInt
    let r : Byte := BitVec.ofInt 8 (a.toInt - b.toInt * q)
    (r, flags4 r false false)

/-! ### Jump conditions (spec/46_control_transfer.md R176 to R191) -/

/-- Signed less: S differs from O (R183). -/
def signedLess (f : Byte) : Bool := flagS f != flagO f

def condJmp (_ : Byte) : Bool := true

def condJz (f : Byte) : Bool := flagZ f

def condJnz (f : Byte) : Bool := !flagZ f

def condJs (f : Byte) : Bool := flagS f

def condJns (f : Byte) : Bool := !flagS f

def condJo (f : Byte) : Bool := flagO f

def condJno (f : Byte) : Bool := !flagO f

def condJsl (f : Byte) : Bool := signedLess f

def condJsge (f : Byte) : Bool := !signedLess f

def condJsle (f : Byte) : Bool := flagZ f || signedLess f

def condJsg (f : Byte) : Bool := !flagZ f && !signedLess f

def condJul (f : Byte) : Bool := flagC f

def condJuge (f : Byte) : Bool := !flagC f

def condJule (f : Byte) : Bool := flagC f || flagZ f

def condJug (f : Byte) : Bool := !flagC f && !flagZ f

end Sys2Proof.Machine
end

