-- ==== Sys2Proof/Machine/Timing.lean ====
section
/-! DEFINITION. The cost of an instruction (spec/40_execution_and_operands.md R102, spec/70_reset_and_hazards.md R289) and
the constants of time and of the port handshake (spec/00_scope.md R6, R7). -/

namespace Sys2Proof.Machine

open Sys2Proof

/-- `MEM_READ_SPEED`: cycles per instruction byte, the spec's default (R7, D12; log entry 6). -/
def memReadSpeed : Nat := 1

/-- `EXTRA_COST`: cycles beyond the read-cost, the spec's default (R7, D12; log entry 6). -/
def extraCost (_ : Instr) : Nat := 0

/-- The cost of an instruction: its length times the read speed, and the extra cost (R102). -/
def cost (i : Instr) : Nat := i.length * memReadSpeed + extraCost i

/-- Cycles per simulated second (R6). -/
def clockRate : Nat := 400

/-- The constants of the port handshake window (R6). -/
def handshakeLow : Nat := 2

def handshakeHigh : Nat := 8

/-- What the source says of a real partner, transcribed and not used by the core (spec/47_port_io.md R208): a message
that can never complete within its window, `currentCycles < timestamp - 2`. -/
def partnerTimesOut (currentCycles timestamp : Nat) : Bool := currentCycles + handshakeLow < timestamp

/-- The window has expired, `> timestamp+8` (R208), not used by the core. The rule names no left operand
(spec/91_not_in_source.md N8): that it is `currentCycles`, as in the other comparison, is the model's choice (DESIGN CHOICE,
log entry 21). -/
def partnerWindowExpired (currentCycles timestamp : Nat) : Bool := timestamp + handshakeHigh < currentCycles

end Sys2Proof.Machine
end

