-- ==== Sys2Proof/Machine/Ops.lean ====
section
/-! DEFINITION. The named operations over the state: sparse maps, memory, registers, breakpoints, the port message, and
how an instruction's outcome ends it. -/

namespace Sys2Proof.Machine

open Sys2Proof

/-! ### Sparse maps: memory, breakpoints, ports

A sparse map lists the keys whose value is not the default `d`, strictly rising. -/

variable {α : Type} [DecidableEq α]

/-- The value at a key. -/
def look (d : α) : List (Nat × α) → Nat → α
  | [], _ => d
  | (k, v) :: l, a => if k = a then v else look d l a

/-- The map without a key. -/
def remove (l : List (Nat × α)) (a : Nat) : List (Nat × α) := l.filter fun c => c.1 ≠ a

/-- The map with an entry put before the first larger key. -/
def insertAt : List (Nat × α) → Nat → α → List (Nat × α)
  | [], a, v => [(a, v)]
  | (k, w) :: l, a, v => if a < k then (a, v) :: (k, w) :: l else (k, w) :: insertAt l a v

/-- The map with the value at a key replaced; the default value removes the entry. -/
def put (d : α) (l : List (Nat × α)) (a : Nat) (v : α) : List (Nat × α) :=
  if v = d then remove l a else insertAt (remove l a) a v

/-- The canonical form: keys strictly rising and below 256, no entry equal to the default. -/
def sparseWf (d : α) : List (Nat × α) → Bool
  | [] => true
  | (k, v) :: l => decide (k < 256) && decide (v ≠ d) && l.all (fun c => decide (k < c.1)) && sparseWf d l

/-! ### Memory (spec/20_memory.md R40 to R43) -/

/-- What an address that memory does not list reads as: 0 (spec/10_state.md R30; log entry 1). -/
def unlistedByte : Byte := 0

/-- The byte at an address. -/
def Memory.read (m : Memory) (a : Byte) : Byte := look unlistedByte m a.toNat

/-- Memory with one byte stored. -/
def Memory.write (m : Memory) (a v : Byte) : Memory := put unlistedByte m a.toNat v

/-- The canonical form of memory. -/
def Memory.wf (m : Memory) : Bool := sparseWf unlistedByte m

/-- `n` consecutive bytes from an address on, wrapping mod 256 (R40, R41). -/
def Memory.bytes (m : Memory) (a : Byte) (n : Nat) : List Byte :=
  (List.range n).map fun k => m.read (a + BitVec.ofNat 8 k)

/-- Consecutive bytes stored in increasing order from an address on, wrapping mod 256 (R40, R41). -/
def Memory.store (m : Memory) (a : Byte) : List Byte → Memory
  | [] => m
  | v :: vs => Memory.store (m.write a v) (a + 1) vs

/-! ### Registers (spec/10_state.md R11) -/

/-- The value of a general register. -/
def Regs.get (r : Regs) : GReg → Byte
  | .r0 => r.r0
  | .r1 => r.r1
  | .r2 => r.r2
  | .r3 => r.r3

/-- The register file with one general register written. -/
def Regs.set (r : Regs) (g : GReg) (v : Byte) : Regs :=
  match g with
  | .r0 => { r with r0 := v }
  | .r1 => { r with r1 := v }
  | .r2 => { r with r2 := v }
  | .r3 => { r with r3 := v }

/-! ### Outputs and the debugger's state (spec/60_exceptions.md R262, R263) -/

/-- The state with an output given to the outside. -/
def emit (o : Output) (s : State) : State :=
  { s with env := { s.env with outputs := o :: s.env.outputs } }

/-- The state with an output given if its hook is set. -/
def emitIf (hook : Bool) (o : Output) (s : State) : State := if hook then emit o s else s

/-- An address that no breakpoint names. -/
def noAccess : Access := { read := false, write := false }

/-- The breakpoint bits of an address (R262). -/
def breakpointAt (s : State) (a : Byte) : Access := look noAccess s.debugger.breakpoints a.toNat

/-- The debug mode set; `debugModeChange` fires when it changes (R262). -/
def setDebugMode (m : DebugMode) (s : State) : State :=
  if s.debugger.mode = m then s
  else emitIf s.debugger.hooks.debugModeChange (.debugModeChange m) { s with debugger := { s.debugger with mode := m } }

/-- Some address to be read has its read bit set, or some address to be written its write bit (R263). -/
def breakpointHit (s : State) (reads writes : List Byte) : Bool :=
  reads.any (fun a => (breakpointAt s a).read) || writes.any (fun a => (breakpointAt s a).write)

/-! ### How executing an instruction ends (spec/40_execution_and_operands.md R103, R104) -/

/-- What the family rule of an instruction yields (R103). `success` says whether `pc` was repositioned (R104). -/
inductive Result where
  | success (t : State) (repositioned : Bool)
  | stall (t : State)
  | fail (t : State)
  deriving DecidableEq, Repr

/-- The decoded state of an instruction at the current `pc` (spec/30_encoding.md R85). -/
def decodedAt (i : Instr) (s : State) : Decoded := { instr := i, offset := s.pc, length := i.length }

/-- `Success`: the operation hook is called with the instruction's bytes, as they stood when it was decoded, and its
decoded state (R103; log entry 11); then `pc` advances unless the operation repositioned it (R104). `s` is the state the
instruction was executed in, `t` the state after its effects. -/
def concludeSuccess (i : Instr) (s t : State) (repositioned : Bool) : State :=
  let u := emitIf t.debugger.hooks.operation (.operation (s.mem.bytes s.pc i.length) (decodedAt i s)) t
  { u with
    pc := if repositioned then u.pc else s.pc + BitVec.ofNat 8 i.length
    outcome := some .success }

/-- `Stall`: the cost is refunded; `complete` and `pc` are left (R103). -/
def concludeStall (i : Instr) (t : State) : State :=
  { t with cycles := t.cycles + cost i, outcome := some .stall }

/-- `Fail`: `complete` is set; the cost is kept and `pc` left (R103). -/
def concludeFail (t : State) : State := { t with complete := true, outcome := some .fail }

/-- The end of an executed instruction, by its outcome (R103). The cost was charged before (R102). -/
def conclude (i : Instr) (s : State) : Result → State
  | .success t repositioned => concludeSuccess i s t repositioned
  | .stall t => concludeStall i t
  | .fail t => concludeFail t

/-! ### Stop conditions before execution (R101, R102; spec/60_exceptions.md R250, R264) -/

/-- `InvalidOpcode`: `complete` is set, nothing else changes (R101). -/
def stopInvalid (s : State) : State := { s with complete := true, outcome := some .invalidOpcode }

/-- `BudgetExhausted`: `complete` is set, nothing else changes, the leftover cycles are kept (R102). -/
def stopBudget (s : State) : State := { s with complete := true, outcome := some .budgetExhausted }

/-- `Run` called while paused returns at once (R264). -/
def stopPaused (s : State) : State := { s with outcome := some .paused }

/-- The cost deducted from the budget (R102). -/
def charge (n : Nat) (s : State) : State := { s with cycles := s.cycles - n }

/-- The instruction at `pc` (R101): decoded from memory, with no breakpoint check and no side effect. -/
def fetch (s : State) : Option Instr := decode (s.mem.bytes s.pc maxLength)

/-! ### The port message (spec/47_port_io.md R203, R204, R207) -/

/-- The same message is already pending: the instruction is being retried (R204). -/
def samePending (m : Message) (kind : MessageStatus) (port offset size : Byte) : Bool :=
  m.status = kind && m.port = port && m.offset = offset && m.size = size

/-- `Post` (R204): a new message is stamped with the budget left after the cost; the same pending message is left as it
is, its timestamp included. `kind` is `sendPending` or `receivePending`. -/
def post (kind : MessageStatus) (port offset size : Byte) (s : State) : State :=
  if samePending s.message kind port offset size then s
  else
    { s with
      message :=
        { status := kind, port := port, offset := offset, size := size, timestamp := s.cycles, wait := s.message.wait } }

/-- The request recorded as given out and counted, and the scripted answer, if one stood there, used up. -/
def asked (r : PortRequest) (s : State) : State :=
  { s with env := { script := s.env.script.tail, asked := s.env.asked + 1, outputs := .request r :: s.env.outputs } }

/-- The environment's answer to a request (R203): the oldest scripted answer or, where there is none, the free answer. -/
def answerOf (r : PortRequest) (s : State) : PortAnswer :=
  match s.env.script with
  | a :: _ => a
  | [] => Config.portAnswer s.env.asked r

/-- `ApplyWait` (R207): the wait and the residual wait are paid from the budget; the rest stays as residual wait. -/
def applyWait (w : Nat) (s : State) : State :=
  let total := w + s.message.wait
  if total ≤ s.cycles then { s with cycles := s.cycles - total, message := { s.message with wait := 0 } }
  else { s with cycles := 0, message := { s.message with wait := total - s.cycles } }

end Sys2Proof.Machine
end

