-- ==== Sys2Proof/Machine/Operands.lean ====
section
/-! DEFINITION. The operand resolver (spec/40_execution_and_operands.md R110 to R114): effective addresses, reading and
writing of operands, and the templates of the instructions that use them (R117). -/

namespace Sys2Proof.Machine

open Sys2Proof

/-- The effective address of a memory operand, all sums mod 256 (R110). -/
def effectiveAddress (s : State) : MemOp → Byte
  | .abs off => off
  | .ind ra => s.regs.get ra
  | .off off ra => off + s.regs.get ra
  | .rr ra rb => s.regs.get ra + s.regs.get rb

/-- An operand with its effective address computed, once (R112, R114 step 2). -/
inductive Place where
  | value (v : Byte)
  | register (r : Reg)
  | cell (a : Byte)
  deriving DecidableEq, Repr

/-- The operand resolved; `none` for an invalid operand, on which the instruction fails (R113). -/
def resolve (s : State) : Operand → Option Place
  | .na => none
  | .naInvalid => none
  | .imm v => some (.value v)
  | .rel v => some (.value v)
  | .reg r => some (.register r)
  | .mem m => some (.cell (effectiveAddress s m))

/-- The value of a register operand; `pc` reads as the address of the instruction itself (R111). -/
def readReg (s : State) : Reg → Byte
  | .gp g => s.regs.get g
  | .flags => s.flags
  | .pc => s.pc

/-- `ReadOperand` on a resolved operand (R111). The breakpoint check of a memory read is made before (R114). -/
def readPlace (s : State) : Place → Byte
  | .value v => v
  | .register r => readReg s r
  | .cell a => s.mem.read a

/-- `ReadOperand` (R111); `none` where the instruction fails. -/
def readOperand (s : State) (o : Operand) : Option Byte := (resolve s o).map (readPlace s)

/-- A register written; all 8 bits of `flags` (R112). -/
def writeReg (s : State) (r : Reg) (v : Byte) : State :=
  match r with
  | .gp g => { s with regs := s.regs.set g v }
  | .flags => { s with flags := v }
  | .pc => { s with pc := v }

/-- `WriteOperand` on a resolved operand (R112). A value is never written: no row has kind `I` or `Rel` in a written
position. -/
def writePlace (s : State) (p : Place) (v : Byte) : State :=
  match p with
  | .value _ => s
  | .register r => writeReg s r v
  | .cell a => { s with mem := s.mem.write a v }

/-- Writing the operand repositions `pc`: it is the register `pc` (R104, R112). -/
def repositions : Place → Bool
  | .register .pc => true
  | _ => false

/-- The addresses that reading or writing the operand accesses. -/
def placeAddresses : Place → List Byte
  | .cell a => [a]
  | _ => []

/-- The template `Exec2` of the two-operand instructions (R117), in the order of R114. `op a b` is the result and the
flags byte. -/
def exec2 (op : Byte → Byte → Byte × Byte) (dst src : Operand) (s : State) : Result :=
  match resolve s dst, resolve s src with
  | some d, some b =>
    if breakpointHit s (placeAddresses d ++ placeAddresses b) (placeAddresses d) then .stall (setDebugMode .pause s)
    else
      let rf := op (readPlace s d) (readPlace s b)
      .success { writePlace s d rf.1 with flags := rf.2 } (repositions d)
  | _, _ => .fail s

/-- The template of the one-operand instructions: operand 0 is read and written (R117). -/
def exec1 (op : Byte → Byte × Byte) (dst : Operand) (s : State) : Result :=
  match resolve s dst with
  | some d =>
    if breakpointHit s (placeAddresses d) (placeAddresses d) then .stall (setDebugMode .pause s)
    else
      let rf := op (readPlace s d)
      .success { writePlace s d rf.1 with flags := rf.2 } (repositions d)
  | none => .fail s

/-- `Exec2` without the write of operand 0: compare (R117; spec/42_arithmetic.md R148). -/
def execFlagsOnly (op : Byte → Byte → Byte × Byte) (dst src : Operand) (s : State) : Result :=
  match resolve s dst, resolve s src with
  | some d, some b =>
    if breakpointHit s (placeAddresses d ++ placeAddresses b) [] then .stall (setDebugMode .pause s)
    else .success { s with flags := (op (readPlace s d) (readPlace s b)).2 } false
  | _, _ => .fail s

/-- Operand 1 copied to operand 0, no flags written (R117; spec/41_data_movement.md R140). -/
def execCopy (dst src : Operand) (s : State) : Result :=
  match resolve s dst, resolve s src with
  | some d, some b =>
    if breakpointHit s (placeAddresses b) (placeAddresses d) then .stall (setDebugMode .pause s)
    else .success (writePlace s d (readPlace s b)) (repositions d)
  | _, _ => .fail s

end Sys2Proof.Machine
end

