-- ==== Sys2Proof/Machine/Arithmetic.lean ====
section
/-! DEFINITION. The meanings of `add`, `sub`, `mul`, `cmp` and `neg` (spec/42_arithmetic.md). -/

namespace Sys2Proof.Machine

open Sys2Proof

/-- `add` R, I (R145). -/
def execAddRI (dst : RegOp) (v : Byte) (s : State) : Host.Outcome State Fault Refusal :=
  .next (conclude (.addRI dst v) s (exec2 addOp dst.operand (.imm v) s))

/-- `add` RM, RM (R145). -/
def execAddRM (dst src : RMOp) (s : State) : Host.Outcome State Fault Refusal :=
  .next (conclude (.addRM dst src) s (exec2 addOp dst.operand src.operand s))

/-- `sub` R, I (R146). -/
def execSubRI (dst : RegOp) (v : Byte) (s : State) : Host.Outcome State Fault Refusal :=
  .next (conclude (.subRI dst v) s (exec2 subOp dst.operand (.imm v) s))

/-- `sub` RM, RM (R146). -/
def execSubRM (dst src : RMOp) (s : State) : Host.Outcome State Fault Refusal :=
  .next (conclude (.subRM dst src) s (exec2 subOp dst.operand src.operand s))

/-- `mul` R, I (R147). -/
def execMulRI (dst : RegOp) (v : Byte) (s : State) : Host.Outcome State Fault Refusal :=
  .next (conclude (.mulRI dst v) s (exec2 mulOp dst.operand (.imm v) s))

/-- `mul` RM, RM (R147). -/
def execMulRM (dst src : RMOp) (s : State) : Host.Outcome State Fault Refusal :=
  .next (conclude (.mulRM dst src) s (exec2 mulOp dst.operand src.operand s))

/-- `cmp` R, I (R148). -/
def execCmpRI (dst : RegOp) (v : Byte) (s : State) : Host.Outcome State Fault Refusal :=
  .next (conclude (.cmpRI dst v) s (execFlagsOnly subOp dst.operand (.imm v) s))

/-- `cmp` RM, RM (R148). -/
def execCmpRM (dst src : RMOp) (s : State) : Host.Outcome State Fault Refusal :=
  .next (conclude (.cmpRM dst src) s (execFlagsOnly subOp dst.operand src.operand s))

/-- `neg` RM (R149). -/
def execNeg (dst : RMOp) (s : State) : Host.Outcome State Fault Refusal :=
  .next (conclude (.neg dst) s (exec1 negOp dst.operand s))

end Sys2Proof.Machine
end

