-- ==== Sys2Proof/Machine/Control.lean ====
section
/-! DEFINITION. The meanings of the jumps and of `hlt` (spec/46_control_transfer.md). -/

namespace Sys2Proof.Machine

open Sys2Proof

/-- The common mechanism of the jumps (R175): where the condition holds, `pc` is repositioned to the jump's own address
plus the displacement; else nothing is written. -/
def jump (cond : Byte → Bool) (rel : Byte) (s : State) : Result :=
  if cond s.flags then .success { s with pc := s.pc + rel } true else .success s false

/-- `jmp` (R176). -/
def execJmp (rel : Byte) (s : State) : Host.Outcome State Fault Refusal :=
  .next (conclude (.jmp rel) s (jump condJmp rel s))

/-- `jz` (R177). -/
def execJz (rel : Byte) (s : State) : Host.Outcome State Fault Refusal :=
  .next (conclude (.jz rel) s (jump condJz rel s))

/-- `jnz` (R178). -/
def execJnz (rel : Byte) (s : State) : Host.Outcome State Fault Refusal :=
  .next (conclude (.jnz rel) s (jump condJnz rel s))

/-- `js` (R179). -/
def execJs (rel : Byte) (s : State) : Host.Outcome State Fault Refusal :=
  .next (conclude (.js rel) s (jump condJs rel s))

/-- `jns` (R180). -/
def execJns (rel : Byte) (s : State) : Host.Outcome State Fault Refusal :=
  .next (conclude (.jns rel) s (jump condJns rel s))

/-- `jo` (R181). -/
def execJo (rel : Byte) (s : State) : Host.Outcome State Fault Refusal :=
  .next (conclude (.jo rel) s (jump condJo rel s))

/-- `jno` (R182). -/
def execJno (rel : Byte) (s : State) : Host.Outcome State Fault Refusal :=
  .next (conclude (.jno rel) s (jump condJno rel s))

/-- `jsl` (R183). -/
def execJsl (rel : Byte) (s : State) : Host.Outcome State Fault Refusal :=
  .next (conclude (.jsl rel) s (jump condJsl rel s))

/-- `jsge` (R184). -/
def execJsge (rel : Byte) (s : State) : Host.Outcome State Fault Refusal :=
  .next (conclude (.jsge rel) s (jump condJsge rel s))

/-- `jsle` (R185). -/
def execJsle (rel : Byte) (s : State) : Host.Outcome State Fault Refusal :=
  .next (conclude (.jsle rel) s (jump condJsle rel s))

/-- `jsg` (R186). -/
def execJsg (rel : Byte) (s : State) : Host.Outcome State Fault Refusal :=
  .next (conclude (.jsg rel) s (jump condJsg rel s))

/-- `jul` (R187). -/
def execJul (rel : Byte) (s : State) : Host.Outcome State Fault Refusal :=
  .next (conclude (.jul rel) s (jump condJul rel s))

/-- `juge` (R188). -/
def execJuge (rel : Byte) (s : State) : Host.Outcome State Fault Refusal :=
  .next (conclude (.juge rel) s (jump condJuge rel s))

/-- `jule` (R189). -/
def execJule (rel : Byte) (s : State) : Host.Outcome State Fault Refusal :=
  .next (conclude (.jule rel) s (jump condJule rel s))

/-- `jug` (R190). -/
def execJug (rel : Byte) (s : State) : Host.Outcome State Fault Refusal :=
  .next (conclude (.jug rel) s (jump condJug rel s))

/-- `hlt` (R192): the rest of the budget is given up; the next iteration of the loop then sets `complete`. -/
def execHlt (s : State) : Host.Outcome State Fault Refusal :=
  .next (conclude .hlt s (.success { s with cycles := 0 } false))

end Sys2Proof.Machine
end

