-- ==== Sys2Proof/Machine/DataMovement.lean ====
section
/-! DEFINITION. The meanings of `mov` (spec/41_data_movement.md). -/

namespace Sys2Proof.Machine

open Sys2Proof

/-- `mov` R, I (R140). -/
def execMovRI (dst : RegOp) (v : Byte) (s : State) : Host.Outcome State Fault Refusal :=
  .next (conclude (.movRI dst v) s (execCopy dst.operand (.imm v) s))

/-- `mov` RM, RM (R140). -/
def execMovRM (dst src : RMOp) (s : State) : Host.Outcome State Fault Refusal :=
  .next (conclude (.movRM dst src) s (execCopy dst.operand src.operand s))

end Sys2Proof.Machine
end

