-- ==== Sys2Proof/Machine/Division.lean ====
section
/-! DEFINITION. The meanings of `udiv`, `umod`, `sdiv` and `smod` (spec/45_division.md). -/

namespace Sys2Proof.Machine

open Sys2Proof

/-- `udiv` R, I (R165, R169). -/
def execUdivRI (dst : RegOp) (v : Byte) (s : State) : Host.Outcome State Fault Refusal :=
  .next (conclude (.udivRI dst v) s (exec2 udivOp dst.operand (.imm v) s))

/-- `udiv` RM, RM (R165, R169). -/
def execUdivRM (dst src : RMOp) (s : State) : Host.Outcome State Fault Refusal :=
  .next (conclude (.udivRM dst src) s (exec2 udivOp dst.operand src.operand s))

/-- `umod` R, I (R166, R169). -/
def execUmodRI (dst : RegOp) (v : Byte) (s : State) : Host.Outcome State Fault Refusal :=
  .next (conclude (.umodRI dst v) s (exec2 umodOp dst.operand (.imm v) s))

/-- `umod` RM, RM (R166, R169). -/
def execUmodRM (dst src : RMOp) (s : State) : Host.Outcome State Fault Refusal :=
  .next (conclude (.umodRM dst src) s (exec2 umodOp dst.operand src.operand s))

/-- `sdiv` R, I (R167, R169). -/
def execSdivRI (dst : RegOp) (v : Byte) (s : State) : Host.Outcome State Fault Refusal :=
  .next (conclude (.sdivRI dst v) s (exec2 sdivOp dst.operand (.imm v) s))

/-- `sdiv` RM, RM (R167, R169). -/
def execSdivRM (dst src : RMOp) (s : State) : Host.Outcome State Fault Refusal :=
  .next (conclude (.sdivRM dst src) s (exec2 sdivOp dst.operand src.operand s))

/-- `smod` R, I (R168, R169). -/
def execSmodRI (dst : RegOp) (v : Byte) (s : State) : Host.Outcome State Fault Refusal :=
  .next (conclude (.smodRI dst v) s (exec2 smodOp dst.operand (.imm v) s))

/-- `smod` RM, RM (R168, R169). -/
def execSmodRM (dst src : RMOp) (s : State) : Host.Outcome State Fault Refusal :=
  .next (conclude (.smodRM dst src) s (exec2 smodOp dst.operand src.operand s))

end Sys2Proof.Machine
end

