-- ==== Sys2Proof/Machine/Logic.lean ====
section
/-! DEFINITION. The meanings of `and`, `or`, `xor` and `not` (spec/43_logic.md). -/

namespace Sys2Proof.Machine

open Sys2Proof

/-- `and` R, I (R155). -/
def execAndRI (dst : RegOp) (v : Byte) (s : State) : Host.Outcome State Fault Refusal :=
  .next (conclude (.andRI dst v) s (exec2 andOp dst.operand (.imm v) s))

/-- `and` RM, RM (R155). -/
def execAndRM (dst src : RMOp) (s : State) : Host.Outcome State Fault Refusal :=
  .next (conclude (.andRM dst src) s (exec2 andOp dst.operand src.operand s))

/-- `or` R, I (R156). -/
def execOrRI (dst : RegOp) (v : Byte) (s : State) : Host.Outcome State Fault Refusal :=
  .next (conclude (.orRI dst v) s (exec2 orOp dst.operand (.imm v) s))

/-- `or` RM, RM (R156). -/
def execOrRM (dst src : RMOp) (s : State) : Host.Outcome State Fault Refusal :=
  .next (conclude (.orRM dst src) s (exec2 orOp dst.operand src.operand s))

/-- `xor` R, I (R157). -/
def execXorRI (dst : RegOp) (v : Byte) (s : State) : Host.Outcome State Fault Refusal :=
  .next (conclude (.xorRI dst v) s (exec2 xorOp dst.operand (.imm v) s))

/-- `xor` RM, RM (R157). -/
def execXorRM (dst src : RMOp) (s : State) : Host.Outcome State Fault Refusal :=
  .next (conclude (.xorRM dst src) s (exec2 xorOp dst.operand src.operand s))

/-- `not` RM (R158). -/
def execNot (dst : RMOp) (s : State) : Host.Outcome State Fault Refusal :=
  .next (conclude (.not dst) s (exec1 notOp dst.operand s))

end Sys2Proof.Machine
end

