-- ==== Sys2Proof/Machine/PortIO.lean ====
section
/-! DEFINITION. The meanings of `send` and `recv` and the port interface (spec/47_port_io.md). -/

namespace Sys2Proof.Machine

open Sys2Proof

/-- The addresses of a payload window: `n` bytes from an offset on, wrapping mod 256 (R201, R202). -/
def windowAddresses (off : Byte) (n : Nat) : List Byte := (List.range n).map fun k => off + BitVec.ofNat 8 k

/-- A payload has at most 255 bytes (R203): what the environment answers beyond that is no part of it (log entry 14). -/
def payloadOf (answer : List Byte) : List Byte := answer.take 255

/-- A successful handshake ends the port operation and pays its wait (R205, R207). -/
def finishPort (w : Nat) (s : State) : State :=
  applyWait w { s with message := { s.message with status := .idle } }

/-- `ExecSend` with the port and the size read and the window's start computed (R201). -/
def sendWindow (port size off : Byte) (s : State) : Result :=
  if breakpointHit s (windowAddresses off size.toNat) [] then .stall (setDebugMode .pause s)
  else
    let posted := post .sendPending port off size s
    let request : PortRequest :=
      { direction := .send, port := port, payload := s.mem.bytes off size.toNat, timestamp := posted.message.timestamp }
    let t := asked request posted
    match answerOf request posted with
    | .success w _ => .success (finishPort w t) false
    | .timeout => .stall t
    | .retry => .stall t
    | .defer => .stall t

/-- The payload of an accepted `recv` stored upward from the window's start, and the window's size recorded (R202). -/
def acceptPayload (off : Byte) (payload : List Byte) (s : State) : State :=
  { s with
    mem := s.mem.store off payload
    message := { s.message with offset := off, size := BitVec.ofNat 8 payload.length } }

/-- `ExecRecv` with the port read and the window's start computed (R202). The window is tested against the write
breakpoints when the length is known; a hit leaves the request pending (spec/60_exceptions.md R263; log entry 10). -/
def recvWindow (port off : Byte) (s : State) : Result :=
  let posted := post .receivePending port off 0 s
  let request : PortRequest :=
    { direction := .recv, port := port, payload := [], timestamp := posted.message.timestamp }
  let t := asked request posted
  match answerOf request posted with
  | .success w answer =>
    if breakpointHit s [] (windowAddresses off (payloadOf answer).length) then .stall (setDebugMode .pause t)
    else .success (finishPort w (acceptPayload off (payloadOf answer) t)) false
  | .timeout => .stall t
  | .retry => .stall t
  | .defer => .stall t

/-- `ExecSend` (R201): the operands are resolved, an invalid one fails (R113), then the window is offered. -/
def sendOperands (port size : Operand) (win : MemOp) (s : State) : Result :=
  match readOperand s port, readOperand s size with
  | some p, some z => sendWindow p z (effectiveAddress s win) s
  | _, _ => .fail s

/-- `ExecRecv` (R202). -/
def recvOperands (port : Operand) (win : MemOp) (s : State) : Result :=
  match readOperand s port with
  | some p => recvWindow p (effectiveAddress s win) s
  | none => .fail s

/-- `send` R, R, M (R201). -/
def execSendRRM (port size : RegOp) (win : MemOp) (s : State) : Host.Outcome State Fault Refusal :=
  .next (conclude (.sendRRM port size win) s (sendOperands port.operand size.operand win s))

/-- `send` R, I, M (R201). -/
def execSendRIM (port : RegOp) (size : Byte) (win : MemOp) (s : State) : Host.Outcome State Fault Refusal :=
  .next (conclude (.sendRIM port size win) s (sendOperands port.operand (.imm size) win s))

/-- `send` I, R, M (R201). -/
def execSendIRM (port : Byte) (size : RegOp) (win : MemOp) (s : State) : Host.Outcome State Fault Refusal :=
  .next (conclude (.sendIRM port size win) s (sendOperands (.imm port) size.operand win s))

/-- `send` I, I, M (R201). -/
def execSendIIM (port size : Byte) (win : MemOp) (s : State) : Host.Outcome State Fault Refusal :=
  .next (conclude (.sendIIM port size win) s (sendOperands (.imm port) (.imm size) win s))

/-- `recv` R, M (R202). -/
def execRecvRM (port : RegOp) (win : MemOp) (s : State) : Host.Outcome State Fault Refusal :=
  .next (conclude (.recvRM port win) s (recvOperands port.operand win s))

/-- `recv` I, M (R202). -/
def execRecvIM (port : Byte) (win : MemOp) (s : State) : Host.Outcome State Fault Refusal :=
  .next (conclude (.recvIM port win) s (recvOperands (.imm port) win s))

end Sys2Proof.Machine
end

