-- ==== Sys2Proof/Machine/Shift.lean ====
section
/-! DEFINITION. The meanings of `shl` and `shr` (spec/44_shift.md). -/

namespace Sys2Proof.Machine

open Sys2Proof

/-- `shl` R, I (R160). -/
def execShlRI (dst : RegOp) (v : Byte) (s : State) : Host.Outcome State Fault Refusal :=
  .next (conclude (.shlRI dst v) s (exec2 shlOp dst.operand (.imm v) s))

/-- `shl` RM, RM (R160). -/
def execShlRM (dst src : RMOp) (s : State) : Host.Outcome State Fault Refusal :=
  .next (conclude (.shlRM dst src) s (exec2 shlOp dst.operand src.operand s))

/-- `shr` R, I (R161). -/
def execShrRI (dst : RegOp) (v : Byte) (s : State) : Host.Outcome State Fault Refusal :=
  .next (conclude (.shrRI dst v) s (exec2 shrOp dst.operand (.imm v) s))

/-- `shr` RM, RM (R161). -/
def execShrRM (dst src : RMOp) (s : State) : Host.Outcome State Fault Refusal :=
  .next (conclude (.shrRM dst src) s (exec2 shrOp dst.operand src.operand s))

end Sys2Proof.Machine
end

