-- ==== Sys2Proof/Machine/Dispatch.lean ====
section
/-! DEFINITION. `Execute(st)` of spec/40_execution_and_operands.md R105: one arm per row of the opcode table, each a call
of that row's meaning. -/

namespace Sys2Proof.Machine

open Sys2Proof Host

def exec (i : Instr) (s : State) : Host.Outcome State Fault Refusal :=
  match i with
  | .addRI d v => Sys2Proof.Machine.execAddRI d v s
  | .addRM d b => Sys2Proof.Machine.execAddRM d b s
  | .movRI d v => Sys2Proof.Machine.execMovRI d v s
  | .movRM d b => Sys2Proof.Machine.execMovRM d b s
  | .subRI d v => Sys2Proof.Machine.execSubRI d v s
  | .subRM d b => Sys2Proof.Machine.execSubRM d b s
  | .mulRI d v => Sys2Proof.Machine.execMulRI d v s
  | .mulRM d b => Sys2Proof.Machine.execMulRM d b s
  | .sdivRI d v => Sys2Proof.Machine.execSdivRI d v s
  | .sdivRM d b => Sys2Proof.Machine.execSdivRM d b s
  | .udivRI d v => Sys2Proof.Machine.execUdivRI d v s
  | .udivRM d b => Sys2Proof.Machine.execUdivRM d b s
  | .smodRI d v => Sys2Proof.Machine.execSmodRI d v s
  | .smodRM d b => Sys2Proof.Machine.execSmodRM d b s
  | .umodRI d v => Sys2Proof.Machine.execUmodRI d v s
  | .umodRM d b => Sys2Proof.Machine.execUmodRM d b s
  | .cmpRI d v => Sys2Proof.Machine.execCmpRI d v s
  | .cmpRM d b => Sys2Proof.Machine.execCmpRM d b s
  | .shlRI d v => Sys2Proof.Machine.execShlRI d v s
  | .shlRM d b => Sys2Proof.Machine.execShlRM d b s
  | .shrRI d v => Sys2Proof.Machine.execShrRI d v s
  | .shrRM d b => Sys2Proof.Machine.execShrRM d b s
  | .xorRI d v => Sys2Proof.Machine.execXorRI d v s
  | .xorRM d b => Sys2Proof.Machine.execXorRM d b s
  | .orRI d v => Sys2Proof.Machine.execOrRI d v s
  | .orRM d b => Sys2Proof.Machine.execOrRM d b s
  | .andRI d v => Sys2Proof.Machine.execAndRI d v s
  | .andRM d b => Sys2Proof.Machine.execAndRM d b s
  | .not d => Sys2Proof.Machine.execNot d s
  | .neg d => Sys2Proof.Machine.execNeg d s
  | .hlt => Sys2Proof.Machine.execHlt s
  | .jmp rel => Sys2Proof.Machine.execJmp rel s
  | .jz rel => Sys2Proof.Machine.execJz rel s
  | .jnz rel => Sys2Proof.Machine.execJnz rel s
  | .js rel => Sys2Proof.Machine.execJs rel s
  | .jns rel => Sys2Proof.Machine.execJns rel s
  | .jo rel => Sys2Proof.Machine.execJo rel s
  | .jno rel => Sys2Proof.Machine.execJno rel s
  | .jsl rel => Sys2Proof.Machine.execJsl rel s
  | .jsge rel => Sys2Proof.Machine.execJsge rel s
  | .jsle rel => Sys2Proof.Machine.execJsle rel s
  | .jsg rel => Sys2Proof.Machine.execJsg rel s
  | .jul rel => Sys2Proof.Machine.execJul rel s
  | .juge rel => Sys2Proof.Machine.execJuge rel s
  | .jule rel => Sys2Proof.Machine.execJule rel s
  | .jug rel => Sys2Proof.Machine.execJug rel s
  | .sendRRM p z m => Sys2Proof.Machine.execSendRRM p z m s
  | .sendRIM p z m => Sys2Proof.Machine.execSendRIM p z m s
  | .sendIRM p z m => Sys2Proof.Machine.execSendIRM p z m s
  | .sendIIM p z m => Sys2Proof.Machine.execSendIIM p z m s
  | .recvRM p m => Sys2Proof.Machine.execRecvRM p m s
  | .recvIM p m => Sys2Proof.Machine.execRecvIM p m s

end Sys2Proof.Machine
end

