-- ==== Sys2Proof/Machine/Step.lean ====
section
/-! DEFINITION. One iteration of the loop of `Run` (spec/40_execution_and_operands.md R105). -/

namespace Sys2Proof.Machine

open Sys2Proof

/-- One iteration of the loop of `Run` (R105; log entry 3): paused, nothing is decoded (R264); an unassigned opcode stops
(R101); a cost above the budget stops (R102); else the cost is charged and the decoded instruction is executed, `exec`
ending it by its outcome (R103, R104). `complete` is not read. -/
def step (s : State) : Host.Outcome State Fault Refusal :=
  if s.debugger.mode = .pause then .next (stopPaused s)
  else
    match fetch s with
    | none => .next (stopInvalid s)
    | some i => if cost i > s.cycles then .next (stopBudget s) else exec i (charge (cost i) s)

/-- A table word stored at `pc`, in all bytes a longest instruction takes, with the debugger not pausing and the budget
at least the instruction's cost, so that the next step runs it (log entry 2). -/
def State.withFetchWord (s : State) (nbits w : Nat) : State :=
  { s with
    mem := s.mem.store s.pc (tableBytes nbits w)
    cycles := max s.cycles (((decodeTableWord nbits w).map cost).getD 0)
    debugger := { s.debugger with mode := .continue } }

end Sys2Proof.Machine
end

