-- ==== Sys2Proof/Machine/ControlFlow.lean ====
section
/-! DEFINITION. The control-flow classes (spec/40_execution_and_operands.md R120, R121). -/

namespace Sys2Proof.Machine

open Sys2Proof

/-- The control-flow effect of an instruction (R120). -/
inductive FlowEffect where
  | none
  | branch
  | pause
  | io
  deriving DecidableEq, Repr

/-- Whether the effect always happens (R120). -/
inductive FlowEvaluation where
  | unconditional
  | conditional
  deriving DecidableEq, Repr

/-- Where control goes: nowhere else, to an address known from the instruction's bytes, or to one that is not (R120). -/
inductive FlowTarget where
  | none
  | static (a : Byte)
  | dynamic
  deriving DecidableEq, Repr

/-- The result of `GetControlFlow` (R120). -/
structure ControlFlow where
  effect : FlowEffect
  evaluation : FlowEvaluation
  target : FlowTarget
  deriving DecidableEq, Repr

/-- No control-flow effect. -/
def straightFlow : ControlFlow := { effect := .none, evaluation := .unconditional, target := .none }

/-- An instruction that writes operand 0: an unconditional branch with a dynamic target where that is `pc` (R120). -/
def writerFlow (dst : Operand) : ControlFlow :=
  if dst = .reg .pc then { effect := .branch, evaluation := .unconditional, target := .dynamic } else straightFlow

/-- A jump at an address with its displacement (R120). -/
def jumpFlow (evaluation : FlowEvaluation) (offset rel : Byte) : ControlFlow :=
  { effect := .branch, evaluation := evaluation, target := .static (offset + rel) }

/-- `send` and `recv` (R120). -/
def ioFlow : ControlFlow := { effect := .io, evaluation := .unconditional, target := .none }

/-- `hlt` (R120). -/
def haltFlow : ControlFlow := { effect := .pause, evaluation := .unconditional, target := .none }

/-- `GetControlFlow` of an instruction decoded at an address (R120). -/
def getControlFlow (offset : Byte) : Instr → ControlFlow
  | .addRI d _ | .movRI d _ | .subRI d _ | .mulRI d _ | .sdivRI d _ | .udivRI d _ | .smodRI d _ => writerFlow d.operand
  | .umodRI d _ | .shlRI d _ | .shrRI d _ | .xorRI d _ | .orRI d _ | .andRI d _ => writerFlow d.operand
  | .addRM d _ | .movRM d _ | .subRM d _ | .mulRM d _ | .sdivRM d _ | .udivRM d _ | .smodRM d _ => writerFlow d.operand
  | .umodRM d _ | .shlRM d _ | .shrRM d _ | .xorRM d _ | .orRM d _ | .andRM d _ => writerFlow d.operand
  | .not d | .neg d => writerFlow d.operand
  | .cmpRI _ _ | .cmpRM _ _ => straightFlow
  | .hlt => haltFlow
  | .jmp rel => jumpFlow .unconditional offset rel
  | .jz rel | .jnz rel | .js rel | .jns rel | .jo rel | .jno rel | .jsl rel => jumpFlow .conditional offset rel
  | .jsge rel | .jsle rel | .jsg rel | .jul rel | .juge rel | .jule rel | .jug rel => jumpFlow .conditional offset rel
  | .sendRRM _ _ _ | .sendRIM _ _ _ | .sendIRM _ _ _ | .sendIIM _ _ _ => ioFlow
  | .recvRM _ _ | .recvIM _ _ => ioFlow

/-- `PredictableFlow`: the effect is none, so `pc` always advances by the instruction's length (R121). -/
def predictableFlow (i : Instr) : Bool := decide ((getControlFlow 0 i).effect = .none)

end Sys2Proof.Machine
end

