-- ==== Sys2Proof/Machine/Graph.lean ====
section
/-! DEFINITION. The execution-graph builder (spec/50_execution_graph.md): a pure function of a memory snapshot and a start
address. It uses `Decode` and `GetControlFlow` and no other part of the processor (R220). -/

namespace Sys2Proof.Machine

open Sys2Proof

/-- A node: a decoded instruction and the block its taken branch leads to, by the block's number (R221). -/
structure Node where
  state : Decoded
  jump : Option Nat
  deriving DecidableEq, Repr

/-- A block: the bytes `start .. start + length - 1`, wrapping, and their nodes in order (R221, R231). `id` is its number
in the arena. -/
structure Block where
  id : Nat
  start : Byte
  length : Nat
  nodes : List Node
  deriving DecidableEq, Repr

/-- An execution graph: its blocks, and the number the next block gets (R221). -/
structure Graph where
  blocks : List Block
  nextId : Nat
  deriving DecidableEq, Repr

/-- Why the builder refuses an image (R232), or stops short of an answer. -/
inductive GraphRefusal where
  /-- a walk arrived inside a range, not at its start: R232 (a), (b) -/
  | insideRange (a : Byte)
  /-- an appended instruction runs into another block or past the walk's own start: R232 (c) -/
  | overlap (a : Byte)
  /-- a jump target is in a range, old or new, but is the offset of none of its nodes: R232 (d) -/
  | midInstruction (a : Byte)
  /-- the fuel of the recursion ran out, or a number names no block: neither happens in `build` (R234; log entry 18) -/
  | noAnswer
  deriving DecidableEq, Repr

/-- The graph with no block (R223). -/
def Graph.empty : Graph := { blocks := [], nextId := 0 }

/-- The address is in the block's range (R224, R231). -/
def Block.covers (b : Block) (a : Byte) : Bool := decide ((a - b.start).toNat < b.length)

/-- The block whose range holds an address (R224). -/
def Graph.find (g : Graph) (a : Byte) : Option Block := g.blocks.find? fun b => b.covers a

/-- The block of a number. -/
def Graph.block (g : Graph) (id : Nat) : Option Block := g.blocks.find? fun b => b.id == id

/-- The address is the offset of a node of the block (R232). -/
def Block.hasNode (b : Block) (a : Byte) : Bool := b.nodes.any fun n => n.state.offset == a

/-- The graph with a new empty block (R224). -/
def Graph.addBlock (g : Graph) (start : Byte) : Graph :=
  { blocks := { id := g.nextId, start := start, length := 0, nodes := [] } :: g.blocks, nextId := g.nextId + 1 }

/-- The graph with a block removed (R230). -/
def Graph.removeBlock (g : Graph) (id : Nat) : Graph := { g with blocks := g.blocks.filter fun b => b.id != id }

/-- The graph with the block of a number changed. -/
def Graph.modify (g : Graph) (id : Nat) (f : Block → Block) : Graph :=
  { g with blocks := g.blocks.map fun b => if b.id = id then f b else b }

/-- A node appended and the range grown by its instruction (R225). -/
def Block.append (b : Block) (st : Decoded) : Block :=
  { b with length := b.length + st.length, nodes := b.nodes ++ [{ state := st, jump := none }] }

/-- The jump successor attached to the node at an offset (R227). -/
def Block.setJump (b : Block) (offset : Byte) (target : Option Nat) : Block :=
  { b with nodes := b.nodes.map fun n => if n.state.offset = offset then { n with jump := target } else n }

/-- A reference to block `old` now denotes block `new` (R229). -/
def Node.redirect (old new : Nat) (n : Node) : Node := if n.jump = some old then { n with jump := some new } else n

/-- `Merge(G, B, E)` (R229): the walked block `b` is put before `e`, which survives; `b` is removed and every reference to
it denotes `e`. -/
def Graph.merge (g : Graph) (b e : Block) : Graph :=
  let joined := (g.removeBlock b.id).modify e.id fun x =>
    { x with start := b.start, length := b.length + x.length, nodes := b.nodes ++ x.nodes }
  { joined with
    blocks := joined.blocks.map fun x => { x with nodes := x.nodes.map (Node.redirect b.id e.id) } }

/-- Some byte of the instruction at an address lies in the range of a block other than the walked one (R232 (c)). -/
def Graph.overlaps (g : Graph) (id : Nat) (a : Byte) (length : Nat) : Bool :=
  g.blocks.any fun b => b.id != id && (List.range length).any fun k => b.covers (a + BitVec.ofNat 8 k)

/-- A builder's answer: the graph, and the block found or made, none for an empty one (R230). -/
abbrev Built := Except GraphRefusal (Graph × Option Nat)

/-- `BuildBlock` over a given walk (R224): an address already mapped gives the block whose range holds it; else a new block
is walked. -/
def buildBlockWith (walk : Graph → Nat → Byte → Built) (g : Graph) (p : Byte) : Built :=
  match g.find p with
  | some e => .ok (g, some e.id)
  | none => walk (g.addBlock p) g.nextId p

/-- The walk of block `id` arrives at an address that some range holds (R225): the start of another block merges (R229),
its own start ends it (R231), anything else is refused (R232). -/
def arrive (g : Graph) (b e : Block) (cur : Byte) : Built :=
  if e.id ≠ b.id then if cur = e.start then .ok (g.merge b e, some e.id) else .error (.insideRange cur)
  else if cur = b.start then .ok (g, some b.id)
  else .error (.insideRange cur)

/-- `Walk(G, M, B, cur)` (R225), `id` the number of `B`. -/
def walk (m : Memory) : Nat → Graph → Nat → Byte → Built
  | 0, _, _, _ => .error .noAnswer
  | n + 1, g, id, cur =>
    match g.block id with
    | none => .error .noAnswer
    | some b =>
      match (if b.length = 0 then none else g.find cur) with
      | some e => arrive g b e cur
      | none =>
        match decode (m.bytes cur maxLength) with
        | none => if b.length = 0 then .ok (g.removeBlock id, none) else .ok (g, some id)
        | some i =>
          if b.length + i.length > 256 then .error (.overlap cur)
          else if g.overlaps id cur i.length then .error (.overlap cur)
          else
            let flow := getControlFlow cur i
            let grown := g.modify id fun x => x.append { instr := i, offset := cur, length := i.length }
            match flow.effect, flow.target with
            | .branch, .static target =>
              match buildBlockWith (walk m n) grown target with
              | .error e => .error e
              | .ok (g', successor) =>
                let linked := g'.modify id fun x => x.setJump cur successor
                if flow.evaluation = .unconditional then .ok (linked, some id)
                else walk m n linked id (cur + BitVec.ofNat 8 i.length)
            | .branch, _ =>
              if flow.evaluation = .unconditional then .ok (grown, some id)
              else walk m n grown id (cur + BitVec.ofNat 8 i.length)
            | .pause, _ => .ok (grown, some id)
            | .none, _ => walk m n grown id (cur + BitVec.ofNat 8 i.length)
            | .io, _ => walk m n grown id (cur + BitVec.ofNat 8 i.length)

/-- One more than the 256 instructions a graph can hold (R234; log entry 18). -/
def walkFuel : Nat := 257

/-- The target of a jump node, the operand of R227; none for every other node. -/
def Node.target (n : Node) : Option Byte :=
  match (getControlFlow n.state.offset n.state.instr).target with
  | .static a => some a
  | .dynamic => none
  | .none => none

/-- A jump target that lies in a range but at the offset of none of its nodes, if there is one (R232 (d)), whether the
range was there before the jump was walked or came after. -/
def Graph.midTarget (g : Graph) : Option Byte :=
  ((g.blocks.flatMap fun b => b.nodes).filterMap Node.target).find? fun a =>
    g.blocks.any fun b => b.covers a && !b.hasNode a

/-- A finished graph is refused where a jump target lies inside a decoded instruction (R232 (d); log entry 18). -/
def refuseMidTarget : Built → Built
  | .error e => .error e
  | .ok (g, id) =>
    match g.midTarget with
    | some a => .error (.midInstruction a)
    | none => .ok (g, id)

/-- `BuildBlock(G, M, p)` (R224), called from outside (R223). -/
def buildBlock (g : Graph) (m : Memory) (p : Byte) : Built := refuseMidTarget (buildBlockWith (walk m walkFuel) g p)

/-- `Build(M, pc0)` (R223). -/
def build (m : Memory) (start : Byte) : Except GraphRefusal Graph := (buildBlock Graph.empty m start).map Prod.fst

end Sys2Proof.Machine
end

