-- ==== Sys2Proof/Machine/HostOps.lean ====
section
/-! DEFINITION. The public operations of the host and the debugger (spec/10_state.md R17): life cycle
(spec/70_reset_and_hazards.md), budget (spec/60_exceptions.md R257), connections (spec/47_port_io.md R209) and debug
(spec/60_exceptions.md R262, R264). They act between calls of `Run` (R252). -/

namespace Sys2Proof.Machine

open Sys2Proof

/-- A binary image: 256 bytes, the entrypoint offset and the named-port table, which the core does not read (R280;
10_state.md R23). -/
structure Binary where
  data : Vector Byte 256
  entrypoint : Byte
  namedPorts : List (String × Byte)
  deriving DecidableEq

/-- The memory that holds consecutive bytes from an address on, in canonical form. -/
def memoryFrom : Nat → List Byte → Memory
  | _, [] => []
  | a, v :: vs => if v = unlistedByte then memoryFrom (a + 1) vs else (a, v) :: memoryFrom (a + 1) vs

/-- The freshly zeroed image with entrypoint 0 (10_state.md R30). -/
def Binary.zero : Binary := { data := Vector.replicate 256 0, entrypoint := 0, namedPorts := [] }

/-- The registers after `Create` and `Reset` (R30). -/
def Regs.zero : Regs := { r0 := 0, r1 := 0, r2 := 0, r3 := 0 }

/-- `Create(binary)` (R281; 10_state.md R30). -/
def create (b : Binary) : State :=
  { regs := Regs.zero
    flags := 0
    pc := b.entrypoint
    mem := memoryFrom 0 b.data.toList
    cycles := 0
    complete := false
    message := Message.idle
    ports := []
    debugger := { mode := .continue, breakpoints := [], hooks := Hooks.none }
    outcome := none
    env := { script := [], asked := 0, outputs := [] } }

/-- `Reset(binary)` (R282; 10_state.md R30): the connections and the debug state are kept, and so is the model's own
channel to the outside. -/
def resetTo (b : Binary) (s : State) : State :=
  { create b with ports := s.ports, debugger := s.debugger, env := s.env }

/-- `SetCycles(n)` (R257): `complete` is cleared and the residual wait is paid first. -/
def setCycles (n : Nat) (s : State) : State :=
  if s.message.wait ≤ n then
    { s with complete := false, cycles := n - s.message.wait, message := { s.message with wait := 0 } }
  else { s with complete := false, cycles := 0, message := { s.message with wait := s.message.wait - n } }

/-- Simulated seconds as whole cycles, rounded down (R257; log entry 13). -/
def cyclesOfSeconds (seconds : Rat) : Nat := (seconds * (clockRate : Rat)).floor.toNat

/-- `AddProcessingTime(seconds)` (R257). -/
def addProcessingTime (seconds : Rat) (s : State) : State := setCycles (s.cycles + cyclesOfSeconds seconds) s

/-- `GetPort(port)` (10_state.md R17). The spec does not say what the port-interface it answers is: that it is the number
of the connection attached to the port (R23), or none, is the model's choice (DESIGN CHOICE, log entry 12). -/
def getPort (s : State) (port : Byte) : Option Nat := look none s.ports port.toNat

/-- A port's connection replaced, `portConnectionChange` fired (R209). -/
def setPort (port : Byte) (c : Option Nat) (s : State) : State :=
  emitIf s.debugger.hooks.portConnectionChange (.portConnectionChange port) { s with ports := put none s.ports port.toNat c }

/-- `Connect(port, connection)` (R209). -/
def connect (port : Byte) (connection : Nat) (s : State) : State := setPort port (some connection) s

/-- `Disconnect(port)`, by the host or by the partner (R209; 10_state.md R23); a port without a connection is left as it
is, so disconnecting twice is safe (log entry 12). -/
def disconnect (port : Byte) (s : State) : State :=
  match getPort s port with
  | none => s
  | some _ => setPort port none s

/-- Every connected port disconnected, as `Destroy` does (R283). That the ports are taken in rising order, which only the
order of the hook's calls shows, is the model's choice (DESIGN CHOICE, log entry 22). -/
def disconnectAll (s : State) : State :=
  (List.range 256).foldl (fun t p => disconnect (BitVec.ofNat 8 p) t) s

/-- The debugger sets or clears the breakpoint bits of an address; `breakpointChange` fires (R262). -/
def setBreakpoint (a : Byte) (bits : Access) (s : State) : State :=
  emitIf s.debugger.hooks.breakpointChange (.breakpointChange a)
    { s with debugger := { s.debugger with breakpoints := put noAccess s.debugger.breakpoints a.toNat bits } }

/-- The debugger sets its callbacks (10_state.md R24). -/
def setHooks (h : Hooks) (s : State) : State := { s with debugger := { s.debugger with hooks := h } }

/-- The debugger pauses a processor between calls of `Run`: `debug` is written by the debugger (10_state.md R24; log entry
9). -/
def pause (s : State) : State := setDebugMode .pause s

/-- The debugger resumes a paused processor (R264). -/
def resume (s : State) : State := setDebugMode .continue s

/-- The processor's phase (10_state.md R21; R257). -/
inductive Phase where
  | idle
  | running
  | complete
  deriving DecidableEq, Repr

/-- Idle, Running or Complete (R257). -/
def phase (s : State) : Phase := if s.complete then .complete else if s.cycles = 0 then .idle else .running

end Sys2Proof.Machine
end

