-- ==== Sys2Proof/Machine/Run.lean ====
section
/-! DEFINITION. The operation `Run` (spec/40_execution_and_operands.md R100, R105). -/

namespace Sys2Proof.Machine

open Sys2Proof

/-- At most `n` iterations of the loop of `Run`: it goes on after `Success` and returns on every other outcome (R105). -/
def runLoop : Nat → State → State
  | 0, s => s
  | n + 1, s =>
    match step s with
    | .next t => if t.outcome = some .success then runLoop n t else t
    | .fault _ => s
    | .refused _ => s

/-- `Run()` (R105). Every executed instruction costs at least one cycle, so one iteration more than there are cycles is
enough for it to return (log entry 17). -/
def run (s : State) : State := runLoop (s.cycles + 1) s

end Sys2Proof.Machine
end

