-- ==== Sys2Proof/Machine/Lifecycle.lean ====
section
/-! DEFINITION. A processor as its host holds it, from `Create` to `Destroy` (spec/70_reset_and_hazards.md R280, R283), and
the calls of its operations (spec/10_state.md R17). -/

namespace Sys2Proof.Machine

open Sys2Proof

/-- A processor in its host's hand. Of a destroyed one nothing is left (R283): neither registers nor memory nor any other
part of `State`. `outputs` is the model's record of what it gave to the outside while it lived (log entry 5). -/
inductive Processor where
  | alive (s : State)
  | destroyed (outputs : List Output)
  deriving DecidableEq, Repr

/-- Why a call is refused. -/
inductive CallRefusal where
  /-- raised by `call` for every operation of a destroyed processor, a broken precondition
  (spec/93_implementation_defined.md U16); safe -/
  | destroyedProcessor
  deriving DecidableEq, Repr

/-- The operations that act on a processor: the host's (R17; `Create` makes one and `GetPort` only reads) and the
debugger's, which writes the breakpoints, the callbacks and the mode, either way (spec/10_state.md R24,
spec/60_exceptions.md R262, R264; log entry 9). -/
inductive HostCall where
  | reset (b : Binary)
  | setCycles (n : Nat)
  | addProcessingTime (seconds : Rat)
  | connect (port : Byte) (connection : Nat)
  | disconnect (port : Byte)
  | run
  | setBreakpoint (a : Byte) (bits : Access)
  | setHooks (h : Hooks)
  | pause
  | resume
  | destroy
  deriving DecidableEq

/-- `Destroy` (R283): every connected port is disconnected, and the processor ends. -/
def destroy (s : State) : Processor := .destroyed (disconnectAll s).env.outputs

/-- What an operation makes of a living processor. -/
def callAlive (c : HostCall) (s : State) : Processor :=
  match c with
  | .reset b => .alive (resetTo b s)
  | .setCycles n => .alive (setCycles n s)
  | .addProcessingTime seconds => .alive (addProcessingTime seconds s)
  | .connect port connection => .alive (connect port connection s)
  | .disconnect port => .alive (disconnect port s)
  | .run => .alive (run s)
  | .setBreakpoint a bits => .alive (setBreakpoint a bits s)
  | .setHooks h => .alive (setHooks h s)
  | .pause => .alive (pause s)
  | .resume => .alive (resume s)
  | .destroy => destroy s

/-- A call of an operation: on a destroyed processor it is refused (R283, U16; log entry 22). -/
def call (c : HostCall) : Processor → Except CallRefusal Processor
  | .alive s => .ok (callAlive c s)
  | .destroyed _ => .error .destroyedProcessor

/-- `GetPort` of a processor (R17), refused on a destroyed one (U16). -/
def callGetPort (port : Byte) : Processor → Except CallRefusal (Option Nat)
  | .alive s => .ok (getPort s port)
  | .destroyed _ => .error .destroyedProcessor

end Sys2Proof.Machine
end

