-- ==== Sys2Proof/Safety.lean ====
section
/-! DEFINITION. The terms claims are stated in: the invariant of the state, what an executed instruction leaves as it was,
what it writes, which data accesses it makes, and what a well-formed graph is. -/

namespace Sys2Proof.Machine

open Sys2Proof

/-! ### The invariant -/

/-- A pending receive has not learnt its size (spec/47_port_io.md R202, R204). -/
def messageWf (m : Message) : Bool := m.status != .complete && (m.status != .receivePending || m.size == 0)

/-- The invariant every step keeps: memory, ports and breakpoints in canonical form, and a message whose status is never
`Complete` (R205: the core's own rules never see it). -/
abbrev State.Inv (s : State) : Prop :=
  s.mem.wf = true ∧ sparseWf none s.ports = true ∧ sparseWf noAccess s.debugger.breakpoints = true ∧
    messageWf s.message = true

/-! ### Data accesses of an instruction (spec/40_execution_and_operands.md R114) -/

/-- The address of a memory operand. -/
def operandAddress (s : State) : Operand → Option Byte
  | .mem m => some (effectiveAddress s m)
  | _ => none

/-- No read breakpoint stands at the operand's address. -/
def readClear (s : State) (o : Operand) : Prop :=
  ∀ a, operandAddress s o = some a → (breakpointAt s a).read = false

/-- No write breakpoint stands at the operand's address. -/
def writeClear (s : State) (o : Operand) : Prop :=
  ∀ a, operandAddress s o = some a → (breakpointAt s a).write = false

/-- The instruction is `send` or `recv`. -/
def isPort (i : Instr) : Bool := i.mnemonic == "send" || i.mnemonic == "recv"

/-- The instruction writes operand 0 (R120). -/
def writesOperand0 (i : Instr) : Bool :=
  ["mov", "add", "sub", "mul", "and", "or", "xor", "not", "neg", "shl", "shr", "udiv", "umod", "sdiv", "smod"].contains
    i.mnemonic

/-- The instruction writes `flags` as a side effect (spec/10_state.md R16). -/
def writesFlags (i : Instr) : Bool :=
  ["add", "sub", "mul", "cmp", "neg", "and", "or", "xor", "not", "shl", "shr", "udiv", "umod", "sdiv", "smod"].contains
    i.mnemonic

/-- Operand 0 of the decoded state (R85). -/
def operand0 (i : Instr) : Operand := i.operands.getD 0 .na

/-- Operand 1 of the decoded state (R85). -/
def operand1 (i : Instr) : Operand := i.operands.getD 1 .na

/-- The addresses an instruction other than `send` and `recv` reads as data: its memory operands, but not the destination
of `mov`. -/
def dataReads (s : State) (i : Instr) : List Byte :=
  (if i.mnemonic == "mov" then [] else (operandAddress s (operand0 i)).toList) ++ (operandAddress s (operand1 i)).toList

/-- The addresses an instruction other than `send` and `recv` writes. -/
def dataWrites (s : State) (i : Instr) : List Byte :=
  if writesOperand0 i then (operandAddress s (operand0 i)).toList else []

/-! ### What an executed instruction leaves and writes -/

/-- The instruction ended in `Success` (the model's record of it: log entry 5) and left the state that no operand names:
budget, `complete`, message, connections and debug state. -/
def Completed (s t : State) : Prop :=
  t.outcome = some .success ∧ t.cycles = s.cycles ∧ t.complete = s.complete ∧ t.message = s.message ∧
    t.ports = s.ports ∧ t.debugger = s.debugger

/-- What an instruction gives to the outside when it ends in `Success`: the operation hook, if set, is called with the
instruction's bytes and decoded state (R103; the record of calls is the model's, log entry 11). -/
def hookCall (i : Instr) (s : State) : List Output :=
  if s.debugger.hooks.operation then
    [.operation (s.mem.bytes s.pc i.length) { instr := i, offset := s.pc, length := i.length }]
  else []

/-- The address of the next instruction (R104). -/
def nextPc (i : Instr) (s : State) : Byte := s.pc + BitVec.ofNat 8 i.length

/-- Among the general registers, memory and `pc`, only the destination changed, and it holds `r`; writing `pc` is a jump,
else `pc` advanced (R104, R112). `flags` is said apart. -/
def WritesOnly (i : Instr) (s t : State) (dst : Operand) (r : Byte) : Prop :=
  (∀ g, t.regs.get g = if dst = .reg (.gp g) then r else s.regs.get g) ∧
    (∀ a, t.mem.read a = if operandAddress s dst = some a then r else s.mem.read a) ∧
    t.pc = if dst = .reg .pc then r else nextPc i s

/-- No general register and no byte of memory changed. -/
def LeavesData (s t : State) : Prop :=
  (∀ g, t.regs.get g = s.regs.get g) ∧ ∀ a, t.mem.read a = s.mem.read a

/-- The flags byte: Z (bit 0), C (bit 1), S (bit 2) and O (bit 3) hold exactly where the propositions do, and bits 7 to 4
are 0 (spec/10_state.md R14, R15). -/
def FlagsAre (f : Byte) (z c s o : Prop) : Prop :=
  (f.getLsbD 0 = true ↔ z) ∧ (f.getLsbD 1 = true ↔ c) ∧ (f.getLsbD 2 = true ↔ s) ∧ (f.getLsbD 3 = true ↔ o) ∧
    f.toNat < 16

/-- The instruction is the `R, I` or the `RM, RM` row of a mnemonic, with these two operands. -/
def Form2 (ri : RegOp → Byte → Instr) (rm : RMOp → RMOp → Instr) (i : Instr) (dst src : Operand) : Prop :=
  (∃ d v, i = ri d v ∧ dst = d.operand ∧ src = .imm v) ∨
    ∃ d b, i = rm d b ∧ dst = d.operand ∧ src = b.operand

/-- The two operands read as `a` and `b`, and no breakpoint stops an instruction that reads both and writes neither. -/
def ReadyRead (s : State) (dst src : Operand) (a b : Byte) : Prop :=
  readOperand s dst = some a ∧ readOperand s src = some b ∧ readClear s dst ∧ readClear s src

/-- The two operands read as `a` and `b`, and no breakpoint stops an instruction that reads both and writes the first. -/
def Ready2 (s : State) (dst src : Operand) (a b : Byte) : Prop :=
  readOperand s dst = some a ∧ readOperand s src = some b ∧ readClear s dst ∧ writeClear s dst ∧ readClear s src

/-- The instruction is one of the four rows of `send`, with these operands. -/
def FormSend (i : Instr) (port size : Operand) (win : MemOp) : Prop :=
  (∃ p z, i = .sendRRM p z win ∧ port = p.operand ∧ size = z.operand) ∨
    (∃ p v, i = .sendRIM p v win ∧ port = p.operand ∧ size = .imm v) ∨
    (∃ v z, i = .sendIRM v z win ∧ port = .imm v ∧ size = z.operand) ∨
    ∃ v w, i = .sendIIM v w win ∧ port = .imm v ∧ size = .imm w

/-- The instruction is one of the two rows of `recv`, with these operands. -/
def FormRecv (i : Instr) (port : Operand) (win : MemOp) : Prop :=
  (∃ p, i = .recvRM p win ∧ port = p.operand) ∨ ∃ v, i = .recvIM v win ∧ port = .imm v

/-- The window's address `k`, wrapping mod 256. -/
def windowByte (off : Byte) (k : Nat) : Byte := off + BitVec.ofNat 8 k

/-- The timestamp a request is stamped with: the pending message's where the same message is being retried, else the
budget (R204). -/
def requestStamp (s : State) (kind : MessageStatus) (port off size : Byte) : Nat :=
  if s.message.status = kind ∧ s.message.port = port ∧ s.message.offset = off ∧ s.message.size = size then
    s.message.timestamp
  else s.cycles

/-- The request of a `send` (R201, R203): the payload is the window's bytes in order. -/
def sendRequest (s : State) (port size off : Byte) : PortRequest :=
  { direction := .send
    port := port
    payload := (List.range size.toNat).map fun k => s.mem.read (windowByte off k)
    timestamp := requestStamp s .sendPending port off size }

/-- The request of a `recv` (R202, R203). -/
def recvRequest (s : State) (port off : Byte) : PortRequest :=
  { direction := .recv, port := port, payload := [], timestamp := requestStamp s .receivePending port off 0 }

/-- The message as posted and pending (R204). -/
def pendingMessage (s : State) (kind : MessageStatus) (port off size : Byte) : Message :=
  { status := kind, port := port, offset := off, size := size, timestamp := requestStamp s kind port off size,
    wait := s.message.wait }

/-- The instruction waits: it ended in `Stall`, its cost was refunded, and neither registers, flags, memory, `pc`,
`complete`, the connections, the breakpoints nor the hooks changed (R103, R206). -/
def Waits (i : Instr) (s t : State) : Prop :=
  t.outcome = some .stall ∧ t.cycles = s.cycles + cost i ∧ LeavesData s t ∧ t.flags = s.flags ∧ t.pc = s.pc ∧
    t.complete = s.complete ∧ t.ports = s.ports ∧ t.debugger.breakpoints = s.debugger.breakpoints ∧
    t.debugger.hooks = s.debugger.hooks

/-- A port operation completed: `Success`, the message idle with its port, window and stamp, and the wait `w` and the
residual wait paid from the budget, the rest kept as residual wait (R205, R207). -/
def PortDone (i : Instr) (s t : State) (port off size : Byte) (stamp w : Nat) : Prop :=
  t.outcome = some .success ∧
    t.message =
      { status := .idle, port := port, offset := off, size := size, timestamp := stamp,
        wait := w + s.message.wait - s.cycles } ∧
    t.cycles = s.cycles - (w + s.message.wait) ∧ (∀ g, t.regs.get g = s.regs.get g) ∧ t.flags = s.flags ∧
    t.pc = nextPc i s ∧ t.complete = s.complete ∧ t.ports = s.ports ∧ t.debugger = s.debugger

/-- The encodings of the `R, I` row with opcode `n` and of the `RM, RM` row with opcode `n + 1` (spec/30_encoding.md R63,
R75). -/
def Encoded2 (ri : RegOp → Byte → Instr) (rm : RMOp → RMOp → Instr) (n : Nat) : Prop :=
  (∀ d v, encodeBits (ri d v) = natBits 6 n ++ (natBits 3 d.code ++ natBits 8 v.toNat)) ∧
    ∀ d b, encodeBits (rm d b) = natBits 6 (n + 1) ++ ((Arg.RM d).bits ++ (Arg.RM b).bits)

/-- The instruction is one of the 15 jumps (opcodes 33 to 47). -/
def isJump (i : Instr) : Bool := decide (33 ≤ i.opcode) && decide (i.opcode ≤ 47)

/-- The two rows of a two-operand instruction that writes operand 0 and the flags (R117): their encodings, and that on
every form, from every state in which the operands `a` and `b` are read and no breakpoint hits, the instruction completes,
writes a result `r` to operand 0 and nothing else, and sets Z and S from `r`, C and O as said. -/
def Mutates2 (ri : RegOp → Byte → Instr) (rm : RMOp → RMOp → Instr) (n : Nat) (pre : Byte → Byte → Prop)
    (res c o : Byte → Byte → Byte → Prop) : Prop :=
  Encoded2 ri rm n ∧
    ∀ (i : Instr) (dst src : Operand) (s : State) (a b : Byte), Form2 ri rm i dst src → Ready2 s dst src a b → pre a b →
      ∃ t r, exec i s = .next t ∧ Completed s t ∧ res a b r ∧ WritesOnly i s t dst r ∧
        FlagsAre t.flags (r = 0) (c a b r) (128 ≤ r.toNat) (o a b r)

/-- A divisor of 0, on both rows of a division (spec/45_division.md R169): the instruction completes, 0 is written to the
destination and `flags` is 0x0B. -/
def DividesByZero (ri : RegOp → Byte → Instr) (rm : RMOp → RMOp → Instr) : Prop :=
  ∀ (i : Instr) (dst src : Operand) (s : State) (a : Byte), Form2 ri rm i dst src → Ready2 s dst src a 0 →
    ∃ t, exec i s = .next t ∧ Completed s t ∧ WritesOnly i s t dst 0 ∧ t.flags = 0x0B

/-- The row of a one-operand instruction, said as `Mutates2` says it of two (R117). -/
def Mutates1 (c1 : RMOp → Instr) (n : Nat) (res c o : Byte → Byte → Prop) : Prop :=
  (∀ d, encodeBits (c1 d) = natBits 6 n ++ (Arg.RM d).bits) ∧
    ∀ (d : RMOp) (s : State) (a : Byte), readOperand s d.operand = some a → readClear s d.operand →
      writeClear s d.operand →
      ∃ t r, exec (c1 d) s = .next t ∧ Completed s t ∧ res a r ∧ WritesOnly (c1 d) s t d.operand r ∧
        FlagsAre t.flags (r = 0) (c a r) (128 ≤ r.toNat) (o a r)

/-- The jumps on single flags: the instruction, its opcode and whether it is taken on the flags Z, S and O
(spec/46_control_transfer.md R176 to R182). -/
def FlagJump (rel : Byte) (z sg o : Bool) (i : Instr) (n : Nat) (taken : Bool) : Prop :=
  (i = .jmp rel ∧ n = 33 ∧ taken = true) ∨ (i = .jz rel ∧ n = 34 ∧ taken = z) ∨ (i = .jnz rel ∧ n = 35 ∧ taken = !z) ∨
    (i = .js rel ∧ n = 36 ∧ taken = sg) ∨ (i = .jns rel ∧ n = 37 ∧ taken = !sg) ∨ (i = .jo rel ∧ n = 38 ∧ taken = o) ∨
    (i = .jno rel ∧ n = 39 ∧ taken = !o)

/-- The jumps on an ordering: the instruction, its opcode and whether it is taken on the flags Z, C, S and O
(spec/46_control_transfer.md R183 to R190). -/
def OrderJump (rel : Byte) (z c sg o : Bool) (i : Instr) (n : Nat) (taken : Bool) : Prop :=
  (i = .jsl rel ∧ n = 40 ∧ taken = (sg != o)) ∨ (i = .jsge rel ∧ n = 41 ∧ taken = (sg == o)) ∨
    (i = .jsle rel ∧ n = 42 ∧ taken = (z || (sg != o))) ∨ (i = .jsg rel ∧ n = 43 ∧ taken = (!z && (sg == o))) ∨
    (i = .jul rel ∧ n = 44 ∧ taken = c) ∨ (i = .juge rel ∧ n = 45 ∧ taken = !c) ∨
    (i = .jule rel ∧ n = 46 ∧ taken = (c || z)) ∨ (i = .jug rel ∧ n = 47 ∧ taken = (!c && !z))

/-- Executed in `t`, the jump goes to its target exactly where the proposition holds, and else to the next
instruction. -/
def JumpsWhen (t : State) (rel : Byte) (i : Instr) (p : Prop) : Prop :=
  ∃ u, exec i t = .next u ∧ (p → u.pc = t.pc + rel) ∧ (¬p → u.pc = t.pc + 2)

/-! ### Processors -/

/-- A living processor's state satisfies the invariant; of a destroyed one nothing is left to satisfy it. -/
def Processor.Inv : Processor → Prop
  | .alive s => s.Inv
  | .destroyed _ => True

/-! ### Graphs (spec/50_execution_graph.md R221, R222) -/

/-- The nodes stand one behind the other from an address on, the first at that address. -/
def nodesContiguous : Byte → List Node → Prop
  | _, [] => True
  | a, n :: ns => n.state.offset = a ∧ nodesContiguous (a + BitVec.ofNat 8 n.state.length) ns

/-- A block's nodes are contiguous from its start and its length is the sum of theirs (R221). -/
def Block.Wf (b : Block) : Prop :=
  nodesContiguous b.start b.nodes ∧ b.length = (b.nodes.map fun n => n.state.length).sum ∧ 0 < b.length ∧ b.length ≤ 256

/-- The walk of a block ends behind the node: an unconditional branch, static or not, or `hlt` (R226). -/
def Node.Stops (n : Node) : Prop :=
  (getControlFlow n.state.offset n.state.instr).effect = .pause ∨
    ((getControlFlow n.state.offset n.state.instr).effect = .branch ∧
      (getControlFlow n.state.offset n.state.instr).evaluation = .unconditional)

/-- No address belongs to two blocks (R222). -/
def Graph.Disjoint (g : Graph) : Prop :=
  ∀ b ∈ g.blocks, ∀ c ∈ g.blocks, ∀ a, b.covers a = true → c.covers a = true → b = c

/-- How the blocks of a graph of a memory lie: the invariant of R221 and R222. -/
structure Graph.Layout (m : Memory) (g : Graph) : Prop where
  /-- no address belongs to two blocks -/
  disjoint : g.Disjoint
  /-- the blocks' numbers are distinct, and the next one is new (the model's arena, log entry 18) -/
  numbered : (g.blocks.map Block.id).Nodup ∧ ∀ b ∈ g.blocks, b.id < g.nextId
  /-- the nodes of a block are contiguous and fill its range -/
  contiguous : ∀ b ∈ g.blocks, b.Wf
  /-- every node is what its bytes decode to -/
  decoded : ∀ b ∈ g.blocks, ∀ n ∈ b.nodes,
    decode (m.bytes n.state.offset 5) = some n.state.instr ∧ n.state.length = n.state.instr.length

/-- Where the jump references of a graph lead (R227, R230), and that no target lies inside a decoded instruction
(R232 (d)). -/
def Graph.JumpsReach (m : Memory) (g : Graph) : Prop :=
  ∀ b ∈ g.blocks, ∀ n ∈ b.nodes,
    match n.target with
    | some a =>
      ((n.jump = none ∧ decode (m.bytes a 5) = none) ∨ ∃ c ∈ g.blocks, n.jump = some c.id ∧ c.hasNode a = true) ∧
        ∀ c ∈ g.blocks, c.covers a = true → c.hasNode a = true
    | none => n.jump = none

/-- Where the blocks of a graph end (R226, R231): a node that stops a walk is the last of its block, and a block's last node
is such a node, or nothing decodes behind it, or the block covers every address. -/
def Graph.StopsEndBlocks (m : Memory) (g : Graph) : Prop :=
  ∀ b ∈ g.blocks, ∀ (k : Nat) (n : Node), b.nodes[k]? = some n →
    (n.Stops → k + 1 = b.nodes.length) ∧
      (k + 1 = b.nodes.length →
        n.Stops ∨ decode (m.bytes (b.start + BitVec.ofNat 8 b.length) 5) = none ∨ b.length = 256)

end Sys2Proof.Machine
end

