-- ==== Sys2Proof/Certificates/Slice0/Obligations.lean ====
section
/-! DEFINITION. The statements for the provers. A statement's docstring names the rules of spec/ it formalises; where a
clause is the model's own choice it names the log entry. -/

open Sys2Proof
open Sys2Proof.Machine

/-! ### Encoding (spec/30_encoding.md) -/

/-- R73: `Encode` writes the opcode, then each operand's field, and pads the last byte with zero bits; and the round-trip
law: `Decode` reads the same instruction back, whatever bytes follow. -/
def Obligations.DecodeInvertsEncode : Prop :=
  ∀ (i : Instr) (rest : List Byte),
    bytesBits (encode i) =
        natBits 6 i.opcode ++ i.args.flatMap Arg.bits ++ List.replicate (8 * i.length - i.bitLength) false ∧
      decode (encode i ++ rest) = some i

/-- R71: fewer than 8 padding bits follow the last field, the encoder writes them as 0, and the decoder does not read
them: bytes whose bits begin with those of an instruction decode to it. -/
def Obligations.PaddingIsZeroAndIgnored : Prop :=
  ∀ i : Instr,
    8 * i.length - i.bitLength < 8 ∧ (∀ b ∈ (bytesBits (encode i)).drop i.bitLength, b = false) ∧
      ∀ bytes : List Byte, (bytesBits bytes).take i.bitLength = encodeBits i → decode bytes = some i

/-- R62: bits 7 to 2 of the first byte are the opcode, on encoding and on decoding. -/
def Obligations.FirstByteHoldsOpcode : Prop :=
  (∀ i : Instr, ∃ b rest, encode i = b :: rest ∧ b.toNat / 4 = i.opcode) ∧
    ∀ (b : Byte) (rest : List Byte) (i : Instr), decode (b :: rest) = some i → i.opcode = b.toNat / 4

/-- R76: opcodes 0, 1 and 54 to 63 are unassigned; reaching one, `Run` sets `complete` and changes nothing else. `outcome` is the
model's record of the stop (log entry 5). -/
def Obligations.UnassignedSlotsStop : Prop :=
  ∀ (b : Byte) (rest : List Byte),
    (decode (b :: rest) = none ↔ b.toNat / 4 ≤ 1 ∨ 54 ≤ b.toNat / 4) ∧
      ∀ s : State, s.debugger.mode = .continue → s.mem.read s.pc = b → b.toNat / 4 ≤ 1 ∨ 54 ≤ b.toNat / 4 →
        step s = .next { s with complete := true, outcome := some .invalidOpcode } ∧
          run s = { s with complete := true, outcome := some .invalidOpcode }

/-- R66, R77: the eight register codes, of which 2 and 3 decode to the invalid operand; an instruction with such an operand
is charged its read-cost and fails, which sets `complete` and leaves `pc`. -/
def Obligations.ReservedRegisterCodesFail : Prop :=
  (decodeReg 4 = .reg (.gp .r0) ∧ decodeReg 5 = .reg (.gp .r1) ∧ decodeReg 6 = .reg (.gp .r2) ∧
      decodeReg 7 = .reg (.gp .r3) ∧ decodeReg 0 = .reg .flags ∧ decodeReg 1 = .reg .pc ∧ decodeReg 2 = .naInvalid ∧
      decodeReg 3 = .naInvalid) ∧
    ∀ (s : State) (i : Instr), s.debugger.mode = .continue → fetch s = some i → i.wellFormed = false → cost i ≤ s.cycles →
      step s = .next { s with cycles := s.cycles - cost i, complete := true, outcome := some .fail }

/-- Worked encodings of the rules R140, R145, R156, R161, R167, R192, R178, R201 and R202: the bytes decode to the
instructions they stand for. -/
def Obligations.WorkedEncodingsDecode : Prop :=
  decode [0x12, 0x02, 0x80] = some (.movRI (.reg (.gp .r0)) 5) ∧
    decode [0x0D, 0x14] = some (.addRM (.reg (.reg (.gp .r0))) (.reg (.reg (.gp .r1)))) ∧
    decode [0x6E, 0x8A] = some (.orRM (.mem (.ind .r0)) (.reg (.reg (.gp .r1)))) ∧
    decode [0x5E, 0x04, 0xB0] = some (.shrRM (.mem (.abs 9)) (.reg (.reg (.gp .r2)))) ∧
    decode [0x2A, 0x7F, 0x00] = some (.sdivRI (.reg (.gp .r0)) 0xFE) ∧ decode [0x80] = some .hlt ∧
    decode [0x8F, 0xE8] = some (.jnz 0xFA) ∧
    decode [0xC2, 0x50, 0x00] = some (.sendRRM (.reg (.gp .r0)) (.reg (.gp .r1)) (.abs 0)) ∧
    decode [0xD2, 0x80, 0x00] = some (.recvRM (.reg (.gp .r1)) (.abs 0))

/-- R74: the encoder's row selection finds an instruction's own opcode from its mnemonic and its written operands, and no
two rows of one mnemonic admit the same operands (which the rule marks as derived). -/
def Obligations.RowSelectionFindsOpcode : Prop :=
  (∀ i : Instr, i.wellFormed = true → selectRow i.mnemonic (i.args.map Arg.operand) = some i.opcode) ∧
    ∀ (mnemonic : String) (os : List Operand) (m n : Nat),
      rowMatches mnemonic os m = true → rowMatches mnemonic os n = true → m = n

/-- R83, R65: the displacement the assembler emits for an absolute target takes the jump there, from every address. -/
def Obligations.BranchDisplacementReachesTarget : Prop :=
  branchDisplacement 4 10 = 0xFA ∧
    ∀ (target : Byte) (s : State), ∃ t, exec (.jmp (branchDisplacement target s.pc)) s = .next t ∧ t.pc = target

/-! ### State and memory -/

/-- R110, R41: the effective addresses, every sum mod 256. -/
def Obligations.EffectiveAddressesWrap : Prop :=
  ∀ (s : State) (off : Byte) (ra rb : GReg),
    effectiveAddress s (.abs off) = off ∧ effectiveAddress s (.ind ra) = s.regs.get ra ∧
      (effectiveAddress s (.off off ra)).toNat = (off.toNat + (s.regs.get ra).toNat) % 256 ∧
      (effectiveAddress s (.rr ra rb)).toNat = ((s.regs.get ra).toNat + (s.regs.get rb).toNat) % 256

/-- R281, R282, R30: what `Create` and `Reset` leave. `Reset` keeps the connections and the debug state. -/
def Obligations.CreateAndResetValues : Prop :=
  ∀ (b : Binary) (s : State),
    (∀ t, t = create b ∨ t = resetTo b s →
        (∀ g, t.regs.get g = 0) ∧ t.flags = 0 ∧ t.pc = b.entrypoint ∧ (∀ a : Byte, t.mem.read a = b.data[a.toNat]) ∧
          t.cycles = 0 ∧ t.complete = false ∧
          t.message = { status := .idle, port := 0, offset := 0, size := 0, timestamp := 0, wait := 0 }) ∧
      (∀ p, getPort (create b) p = none) ∧ (create b).debugger.mode = .continue ∧ (create b).debugger.hooks = Hooks.none ∧
      (∀ a, breakpointAt (create b) a = { read := false, write := false }) ∧ (resetTo b s).ports = s.ports ∧
      (resetTo b s).debugger = s.debugger

/-- The model's state after reset is `Create` of the freshly zeroed image with entrypoint 0 (the model's choice of image:
log entry 1), and it satisfies the invariant. -/
def Obligations.ResetIsCreateOfZeroImage : Prop := State.reset = create Binary.zero ∧ State.reset.Inv

/-- Every step keeps the invariant: memory, connections and breakpoints stay in canonical form (the model's form), and the
message is never `Complete` (R205). -/
def Obligations.StepKeepsInv : Prop := ∀ s t : State, s.Inv → step s = .next t → t.Inv

/-- The operations of the host and of the debugger keep the invariant, `Run` among them: `Create` makes a state that
satisfies it, and every call on a processor that satisfies it gives one that does (R17, R252, R257, R209, R262, R264,
R282). -/
def Obligations.HostOperationsKeepInv : Prop :=
  (∀ b : Binary, (create b).Inv) ∧
    ∀ (c : HostCall) (s : State) (P : Processor), s.Inv → call c (.alive s) = .ok P → P.Inv

/-- R52: a store is seen by the very next fetch: a `mov` that writes the byte of `hlt` over the first byte of the
instruction behind it. -/
def Obligations.StoreSeenByNextFetch : Prop :=
  ∀ (s : State) (d : MemOp) (r : GReg), effectiveAddress s d = nextPc (.movRM (.mem d) (.reg (.reg (.gp r)))) s →
    s.regs.get r = 0x80 → writeClear s (.mem d) →
    ∃ t, exec (.movRM (.mem d) (.reg (.reg (.gp r)))) s = .next t ∧ t.outcome = some .success ∧ fetch t = some .hlt

/-! ### The loop of `Run` (spec/40_execution_and_operands.md) -/

/-- R101, R102, R264: a step while the debugger pauses decodes nothing; else an unassigned opcode stops it whatever the
budget is; else the instruction the bytes at `pc` decode to is executed, its cost charged, where its cost is at most the
budget, and where it is not `complete` is set and nothing else changes. The cost is the length by default and at least 1
(log entry 6: the default parameters; `outcome` is the model's record, log entry 5). -/
def Obligations.StepRunsDecoded : Prop :=
  ∀ s : State,
    (s.debugger.mode = .pause → step s = .next { s with outcome := some .paused }) ∧
      (s.debugger.mode = .continue → decode (s.mem.bytes s.pc 5) = none →
        step s = .next { s with complete := true, outcome := some .invalidOpcode }) ∧
      ∀ i : Instr, s.debugger.mode = .continue → decode (s.mem.bytes s.pc 5) = some i →
        cost i = i.length ∧ 1 ≤ cost i ∧
          (cost i ≤ s.cycles → step s = exec i { s with cycles := s.cycles - cost i }) ∧
          (s.cycles < cost i → step s = .next { s with complete := true, outcome := some .budgetExhausted })

/-- An instruction whose encoding stands in memory at `pc`, wrapping past address 255, is the one the step executes, for
every instruction (R61, R101, R102). -/
def Obligations.StepRunsEncoded : Prop :=
  ∀ (s : State) (i : Instr), s.debugger.mode = .continue →
    (∀ k (h : k < (encode i).length), s.mem.read (s.pc + BitVec.ofNat 8 k) = (encode i)[k]) → cost i ≤ s.cycles →
    step s = exec i { s with cycles := s.cycles - cost i }

/-- R250, R254: no condition of the machine is a crash: every instruction and every step answers a next state. -/
def Obligations.EveryStepAnswersNext : Prop :=
  (∀ (i : Instr) (s : State), ∃ t, exec i s = .next t) ∧ ∀ s : State, ∃ t, step s = .next t

/-- R105: with a finite budget `Run` always returns: more iterations than it is given change nothing, and it ends in a
stop (log entry 17). -/
def Obligations.RunAlwaysReturns : Prop :=
  ∀ s : State,
    (∀ n, s.cycles < n → runLoop n s = run s) ∧ (run s).outcome ≠ none ∧ (run s).outcome ≠ some .success

/-- `Run` never executes an instruction whose cost exceeds the remaining budget, and the budget never grows while it runs
(R102, R105): a successful step pays at least the instruction's cost, exactly it where the instruction is not `hlt`, `send`
or `recv`. -/
def Obligations.SuccessPaysCost : Prop :=
  ∀ s t : State, step s = .next t → t.outcome = some .success →
    ∃ i, fetch s = some i ∧ t.cycles + cost i ≤ s.cycles ∧
      (i ≠ .hlt → isPort i = false → t.cycles + cost i = s.cycles)

/-- R254: a step that does not execute its instruction changes no register, flag or memory byte and leaves `pc`; of the
rest only `cycles` (a failed instruction keeps its charge), `message` (a stalled `send` or `recv` posted its request) and the
debug mode (a breakpoint hit) can change. -/
def Obligations.StopsArePrecise : Prop :=
  ∀ s t : State, step s = .next t → t.outcome ≠ some .success →
    t.regs = s.regs ∧ t.flags = s.flags ∧ t.mem = s.mem ∧ t.pc = s.pc ∧ t.ports = s.ports ∧
      (t.cycles ≠ s.cycles → t.outcome = some .fail) ∧
      (t.message ≠ s.message → t.outcome = some .stall ∧ ∃ i, fetch s = some i ∧ isPort i = true) ∧
      (t.debugger ≠ s.debugger → t.outcome = some .stall ∧ t.debugger = { s.debugger with mode := .pause }) ∧
      (t.complete = true ∨ t.complete = s.complete)

/-- R255: resumption. After `BudgetExhausted`, a refilled `Run` does what it does from the state before: no instruction is
skipped or repeated. After `Stall` the same instruction is decoded again with the same budget. A processor stopped by an
unassigned opcode or by a failed instruction stays stopped: refilled, its next step stops in the same way, with registers,
flags, memory and `pc` as they were. -/
def Obligations.ResumptionAfterStops : Prop :=
  ∀ s t : State, step s = .next t →
    (t.outcome = some .budgetExhausted →
      ∀ (n : Nat) (q : Rat),
        run (setCycles n t) = run (setCycles n s) ∧ run (addProcessingTime q t) = run (addProcessingTime q s)) ∧
      (t.outcome = some .stall →
        fetch (resume t) = fetch s ∧ (resume t).cycles = s.cycles ∧ (resume t).debugger.mode = .continue) ∧
      ∀ n, t.outcome = some .invalidOpcode ∨ t.outcome = some .fail →
        (∀ i, fetch t = some i → cost i ≤ (setCycles n t).cycles) →
        ∃ u, step (setCycles n t) = .next u ∧ u.outcome = t.outcome ∧ u.complete = true ∧ u.regs = t.regs ∧
          u.flags = t.flags ∧ u.mem = t.mem ∧ u.pc = t.pc

/-- R23: no instruction changes the connections; nor the breakpoints or the hooks (R24), and the debug mode only goes to
`Pause`. -/
def Obligations.StepKeepsConnections : Prop :=
  ∀ s t : State, step s = .next t →
    t.ports = s.ports ∧ t.debugger.breakpoints = s.debugger.breakpoints ∧ t.debugger.hooks = s.debugger.hooks ∧
      (t.debugger.mode ≠ s.debugger.mode → t.debugger.mode = .pause)

/-! ### Operands, outcomes and classes -/

/-- R113: an instruction with an invalid operand fails and has no other effect, whatever the instruction. -/
def Obligations.InvalidOperandFails : Prop :=
  ∀ (i : Instr) (s : State), i.wellFormed = false →
    exec i s = .next { s with complete := true, outcome := some .fail }

/-- R251: which instruction can end in which way. An instruction fails exactly when it has an invalid operand, which the
jumps, `hlt` and the rows 51 and 53 never have; it stalls only if it has a memory operand; only `send` and `recv` write the
message. -/
def Obligations.StopConditionsByInstruction : Prop :=
  ∀ (i : Instr) (s t : State), exec i s = .next t →
    (t.outcome = some .success ∨ t.outcome = some .fail ∨ t.outcome = some .stall) ∧
      (t.outcome = some .fail ↔ i.wellFormed = false) ∧
      (i.wellFormed = false → (i.opcode < 32 ∨ 47 < i.opcode) ∧ i.opcode ≠ 51 ∧ i.opcode ≠ 53) ∧
      (t.outcome = some .stall → ∃ m, Operand.mem m ∈ i.operands) ∧ (t.message ≠ s.message → isPort i = true)

/-- R263 for every instruction but `send` and `recv`: a breakpoint on an address it reads or writes as data pauses the
debugger, and the instruction has no effect; where there is none, it completes. -/
def Obligations.BreakpointDecidesStall : Prop :=
  ∀ (i : Instr) (s : State), isPort i = false → i.wellFormed = true →
    ((∃ a ∈ dataReads s i, (breakpointAt s a).read = true) ∨ (∃ a ∈ dataWrites s i, (breakpointAt s a).write = true) →
      ∃ t, exec i s = .next t ∧ Waits i s t ∧ t.message = s.message ∧ t.debugger.mode = .pause) ∧
    ((∀ a ∈ dataReads s i, (breakpointAt s a).read = false) → (∀ a ∈ dataWrites s i, (breakpointAt s a).write = false) →
      ∃ t, exec i s = .next t ∧ t.outcome = some .success ∧ t.message = s.message ∧ t.debugger = s.debugger)

/-- R16: `mov` (but to `flags`), `hlt`, `send`, `recv` and the jumps leave `flags` unchanged. -/
def Obligations.OthersKeepFlags : Prop :=
  ∀ (i : Instr) (s t : State), exec i s = .next t → writesFlags i = false →
    (i.mnemonic = "mov" → operand0 i ≠ .reg .flags) → t.flags = s.flags

/-- R15: an instruction that computes flags leaves bits 7 to 4 zero, `mov` to `flags` stores all 8 bits, and the jumps
test only bits 3 to 0. -/
def Obligations.UpperFlagBits : Prop :=
  (∀ (i : Instr) (s t : State), exec i s = .next t → writesFlags i = true → t.outcome = some .success →
      t.flags.toNat < 16) ∧
    (∀ (i : Instr) (src : Operand) (s : State) (v : Byte), Form2 .movRI .movRM i (.reg .flags) src →
      readOperand s src = some v → readClear s src → ∃ t, exec i s = .next t ∧ t.flags = v) ∧
    ∀ (i : Instr) (s t u : State) (f : Byte), isJump i = true → f &&& 0x0F = s.flags &&& 0x0F → exec i s = .next t →
      exec i { s with flags := f } = .next u → u.pc = t.pc

/-- R121: the effect is none for exactly the instructions that are no jump, no `hlt`, no `send` or `recv` and do not write
`pc` as operand 0; such an instruction, when it succeeds, advances `pc` by its length, and else leaves `pc`. -/
def Obligations.PredictableFlowAdvances : Prop :=
  (∀ i : Instr, predictableFlow i = true ↔
      isJump i = false ∧ i ≠ .hlt ∧ isPort i = false ∧ (writesOperand0 i = true → operand0 i ≠ .reg .pc)) ∧
    ∀ (i : Instr) (s t : State), predictableFlow i = true → exec i s = .next t →
      t.pc = if t.outcome = some .success then nextPc i s else s.pc

/-- R120: the class of every instruction names where control can go: an unconditional branch with a static target goes
there, a conditional one there or on, and every instruction that is not a branch goes on. -/
def Obligations.ControlFlowSaysWherePcGoes : Prop :=
  ∀ (i : Instr) (s t : State), exec i s = .next t → t.outcome = some .success →
    (∀ a, (getControlFlow s.pc i).target = .static a →
        t.pc = a ∨ ((getControlFlow s.pc i).evaluation = .conditional ∧ t.pc = nextPc i s)) ∧
      ((getControlFlow s.pc i).effect ≠ .branch → t.pc = nextPc i s)

/-- No instruction other than `send` and `recv` reads the budget, `complete`, the message, the connections or the debug
mode (R17, R21, R257): what it leaves in registers, flags, memory and `pc`, and how it ends, is the same in two states that
differ in those only. -/
def Obligations.DataIndependentOfControlState : Prop :=
  ∀ (i : Instr) (s s' t t' : State), isPort i = false → s.regs = s'.regs → s.flags = s'.flags → s.mem = s'.mem →
    s.pc = s'.pc → s.debugger.breakpoints = s'.debugger.breakpoints → exec i s = .next t → exec i s' = .next t' →
    t.regs = t'.regs ∧ t.flags = t'.flags ∧ t.mem = t'.mem ∧ t.pc = t'.pc ∧ t.outcome = t'.outcome

/-- The model's channel to the outside (log entries 4, 5 and 11): an instruction other than `send` and `recv` asks the
environment nothing, and gives out the calls of the operation hook and of `debugModeChange` that R103 and R263 name. -/
def Obligations.OutputsAreHookCalls : Prop :=
  ∀ (i : Instr) (s t : State), isPort i = false → exec i s = .next t →
    t.env.script = s.env.script ∧ t.env.asked = s.env.asked ∧
      (t.outcome = some .success → t.env.outputs = hookCall i s ++ s.env.outputs) ∧
      (t.outcome = some .fail → t.env.outputs = s.env.outputs) ∧
      (t.outcome = some .stall → s.debugger.mode = .continue →
        t.env.outputs =
          (if s.debugger.hooks.debugModeChange then [Output.debugModeChange .pause] else []) ++ s.env.outputs)

/-! ### Data movement, arithmetic, logic, shifts, division -/

/-- R140: `mov` copies a byte, in all its forms, writes no flags unless `flags` is its destination, fails on a reserved
register code and stalls on a breakpoint. -/
def Obligations.MovCopiesByte : Prop :=
  Encoded2 .movRI .movRM 4 ∧
    ∀ (i : Instr) (dst src : Operand) (s : State), Form2 .movRI .movRM i dst src →
      (∀ v w, readOperand s src = some v → readOperand s dst = some w → readClear s src → writeClear s dst →
        ∃ t, exec i s = .next t ∧ Completed s t ∧ WritesOnly i s t dst v ∧
          t.flags = if dst = .reg .flags then v else s.flags) ∧
      (dst = .naInvalid ∨ src = .naInvalid → exec i s = .next { s with complete := true, outcome := some .fail }) ∧
      (dst ≠ .naInvalid → src ≠ .naInvalid → ¬(readClear s src ∧ writeClear s dst) →
        ∃ t, exec i s = .next t ∧ Waits i s t ∧ t.message = s.message ∧ t.debugger.mode = .pause)

/-- R145. -/
def Obligations.AddResult : Prop :=
  Mutates2 .addRI .addRM 2 (fun _ _ => True) (fun a b r => r.toNat = (a.toNat + b.toNat) % 256)
    (fun a b _ => 255 < a.toNat + b.toNat) (fun a b _ => a.toInt + b.toInt < -128 ∨ 127 < a.toInt + b.toInt)

/-- R146. -/
def Obligations.SubResult : Prop :=
  Mutates2 .subRI .subRM 6 (fun _ _ => True) (fun a b r => (r.toNat : Int) = ((a.toNat : Int) - b.toNat) % 256)
    (fun a b _ => a.toNat < b.toNat) (fun a b _ => a.toInt - b.toInt < -128 ∨ 127 < a.toInt - b.toInt)

/-- R147. -/
def Obligations.MulResult : Prop :=
  Mutates2 .mulRI .mulRM 8 (fun _ _ => True) (fun a b r => r.toNat = a.toNat * b.toNat % 256)
    (fun a b _ => 255 < a.toNat * b.toNat) (fun a b _ => 255 < a.toNat * b.toNat)

/-- R148: `cmp` sets the flags of the difference and writes no operand; its control-flow effect is none. -/
def Obligations.CmpSetsFlagsOnly : Prop :=
  Encoded2 .cmpRI .cmpRM 18 ∧
    ∀ (i : Instr) (dst src : Operand) (s : State) (a b : Byte), Form2 .cmpRI .cmpRM i dst src →
      ReadyRead s dst src a b →
      getControlFlow s.pc i = straightFlow ∧
      ∃ t, exec i s = .next t ∧ Completed s t ∧ LeavesData s t ∧ t.pc = nextPc i s ∧
        FlagsAre t.flags (a = b) (a.toNat < b.toNat) (128 ≤ (a - b).toNat)
          (a.toInt - b.toInt < -128 ∨ 127 < a.toInt - b.toInt)

/-- R149. -/
def Obligations.NegResult : Prop :=
  Mutates1 .neg 31 (fun a r => (r.toNat : Int) = (0 - (a.toNat : Int)) % 256) (fun a _ => a ≠ 0) (fun a _ => a = 0x80)

/-- R155, R156, R157: the bitwise instructions. -/
def Obligations.LogicResults : Prop :=
  Mutates2 .andRI .andRM 28 (fun _ _ => True) (fun a b r => ∀ k, k < 8 → r.getLsbD k = (a.getLsbD k && b.getLsbD k))
      (fun _ _ _ => False) (fun _ _ _ => False) ∧
    Mutates2 .orRI .orRM 26 (fun _ _ => True) (fun a b r => ∀ k, k < 8 → r.getLsbD k = (a.getLsbD k || b.getLsbD k))
      (fun _ _ _ => False) (fun _ _ _ => False) ∧
    Mutates2 .xorRI .xorRM 24 (fun _ _ => True) (fun a b r => ∀ k, k < 8 → r.getLsbD k = (a.getLsbD k != b.getLsbD k))
      (fun _ _ _ => False) (fun _ _ _ => False)

/-- R158. -/
def Obligations.NotResult : Prop :=
  Mutates1 .not 30 (fun a r => r.toNat = 255 - a.toNat ∧ ∀ k, k < 8 → r.getLsbD k = !a.getLsbD k) (fun _ _ => False)
    (fun _ _ => False)

/-- R160: the count is all 8 bits of operand 1. -/
def Obligations.ShlResult : Prop :=
  Mutates2 .shlRI .shlRM 20 (fun _ _ => True) (fun a n r => r.toNat = a.toNat * 2 ^ n.toNat % 256)
    (fun a n _ => 1 ≤ n.toNat ∧ n.toNat ≤ 8 ∧ a.getLsbD (8 - n.toNat) = true)
    (fun a _ r => r.getLsbD 7 ≠ a.getLsbD 7)

/-- R161: the count is all 8 bits of operand 1. -/
def Obligations.ShrResult : Prop :=
  Mutates2 .shrRI .shrRM 22 (fun _ _ => True) (fun a n r => r.toNat = a.toNat / 2 ^ n.toNat)
    (fun a n _ => 1 ≤ n.toNat ∧ n.toNat ≤ 8 ∧ a.getLsbD (n.toNat - 1) = true)
    (fun a _ r => r.getLsbD 7 ≠ a.getLsbD 7)

/-- R165, R166: the unsigned quotient and remainder, and a divisor of 0 (R169). -/
def Obligations.UnsignedDivisionResults : Prop :=
  Mutates2 .udivRI .udivRM 12 (fun _ b => b ≠ 0) (fun a b r => r.toNat = a.toNat / b.toNat) (fun _ _ _ => False)
      (fun _ _ _ => False) ∧
    DividesByZero .udivRI .udivRM ∧
    Mutates2 .umodRI .umodRM 16 (fun _ b => b ≠ 0)
      (fun a b r => r.toNat < b.toNat ∧ a.toNat = b.toNat * (a.toNat / b.toNat) + r.toNat) (fun _ _ _ => False)
      (fun _ _ _ => False) ∧
    DividesByZero .umodRI .umodRM

/-- R167: the quotient's magnitude is the floor of the magnitudes' quotient, it is negative when exactly one operand is; O
only for -128 by -1; and a divisor of 0 (R169). -/
def Obligations.SdivResult : Prop :=
  Mutates2 .sdivRI .sdivRM 10 (fun _ b => b ≠ 0)
      (fun a b r => ∃ q : Int, q.natAbs = a.toInt.natAbs / b.toInt.natAbs ∧
        (0 ≤ a.toInt * b.toInt → 0 ≤ q) ∧ (a.toInt * b.toInt < 0 → q ≤ 0) ∧ r = BitVec.ofInt 8 q)
      (fun _ _ _ => False) (fun a b _ => a.toInt = -128 ∧ b.toInt = -1) ∧
    DividesByZero .sdivRI .sdivRM

/-- R168: the remainder is smaller than the divisor, has the sign of the dividend or is 0, and with some quotient gives the
dividend back; and a divisor of 0 (R169). -/
def Obligations.SmodResult : Prop :=
  Mutates2 .smodRI .smodRM 14 (fun _ b => b ≠ 0)
      (fun a b r => ∃ q m : Int, a.toInt = b.toInt * q + m ∧ m.natAbs < b.toInt.natAbs ∧ 0 ≤ m * a.toInt ∧
        r = BitVec.ofInt 8 m)
      (fun _ _ _ => False) (fun _ _ _ => False) ∧
    DividesByZero .smodRI .smodRM

/-- R169: division by zero is one semantics for all four instructions and every form: whichever of them is executed, 0
is written to the destination, `flags` is 0x0B, and the four leave the same registers, flags, memory, `pc` and budget. -/
def Obligations.DivisionByZero : Prop :=
  (DividesByZero .udivRI .udivRM ∧ DividesByZero .umodRI .umodRM ∧ DividesByZero .sdivRI .sdivRM ∧
      DividesByZero .smodRI .smodRM) ∧
    ∀ (i j : Instr) (dst src : Operand) (s t u : State) (a : Byte),
      Form2 .udivRI .udivRM i dst src ∨ Form2 .umodRI .umodRM i dst src ∨ Form2 .sdivRI .sdivRM i dst src ∨
        Form2 .smodRI .smodRM i dst src →
      Form2 .udivRI .udivRM j dst src ∨ Form2 .umodRI .umodRM j dst src ∨ Form2 .sdivRI .sdivRM j dst src ∨
        Form2 .smodRI .smodRM j dst src →
      Ready2 s dst src a 0 → exec i s = .next t → exec j s = .next u →
      t.regs = u.regs ∧ t.flags = u.flags ∧ t.mem = u.mem ∧ t.pc = u.pc ∧ t.cycles = u.cycles

/-! ### Control transfer (spec/46_control_transfer.md) -/

/-- R175 to R182: `jmp` and the jumps on Z, S and O: encoding, cost, control-flow class, condition, target, and that
nothing but `pc` changes. -/
def Obligations.FlagJumps : Prop :=
  ∀ (i : Instr) (rel : Byte) (n : Nat) (taken : Bool) (s : State),
    FlagJump rel (s.flags.getLsbD 0) (s.flags.getLsbD 2) (s.flags.getLsbD 3) i n taken →
    encodeBits i = natBits 6 n ++ natBits 8 rel.toNat ∧ cost i = 2 ∧
      getControlFlow s.pc i = jumpFlow (if i = .jmp rel then .unconditional else .conditional) s.pc rel ∧
      ∃ t, exec i s = .next t ∧ Completed s t ∧ LeavesData s t ∧ t.flags = s.flags ∧
        t.pc = if taken then s.pc + rel else s.pc + 2

/-- R183 to R190: the jumps on an ordering: encoding, cost, control-flow class, condition, target, that nothing but `pc`
changes; and after `cmp a, b` each is taken exactly when its ordering of `a` and `b` holds. -/
def Obligations.OrderJumps : Prop :=
  (∀ (i : Instr) (rel : Byte) (n : Nat) (taken : Bool) (s : State),
      OrderJump rel (s.flags.getLsbD 0) (s.flags.getLsbD 1) (s.flags.getLsbD 2) (s.flags.getLsbD 3) i n taken →
      encodeBits i = natBits 6 n ++ natBits 8 rel.toNat ∧ cost i = 2 ∧
        getControlFlow s.pc i = jumpFlow .conditional s.pc rel ∧
        ∃ t, exec i s = .next t ∧ Completed s t ∧ LeavesData s t ∧ t.flags = s.flags ∧
          t.pc = if taken then s.pc + rel else s.pc + 2) ∧
    ∀ (i : Instr) (dst src : Operand) (s t : State) (a b rel : Byte), Form2 .cmpRI .cmpRM i dst src →
      ReadyRead s dst src a b → exec i s = .next t →
      JumpsWhen t rel (.jsl rel) (a.toInt < b.toInt) ∧ JumpsWhen t rel (.jsge rel) (b.toInt ≤ a.toInt) ∧
        JumpsWhen t rel (.jsle rel) (a.toInt ≤ b.toInt) ∧ JumpsWhen t rel (.jsg rel) (b.toInt < a.toInt) ∧
        JumpsWhen t rel (.jul rel) (a.toNat < b.toNat) ∧ JumpsWhen t rel (.juge rel) (b.toNat ≤ a.toNat) ∧
        JumpsWhen t rel (.jule rel) (a.toNat ≤ b.toNat) ∧ JumpsWhen t rel (.jug rel) (b.toNat < a.toNat)

/-- R192: `hlt` gives up the budget and advances `pc`; the next iteration sets `complete` and changes no register, flag,
memory byte, nor `pc`. Its control-flow class is pause. -/
def Obligations.HaltGivesUpBudget : Prop :=
  encode .hlt = [0x80] ∧ (∀ a, getControlFlow a .hlt = haltFlow) ∧
    ∀ s : State, s.debugger.mode = .continue →
      ∃ t u, exec .hlt s = .next t ∧ t.outcome = some .success ∧ t.cycles = 0 ∧ t.pc = s.pc + 1 ∧ LeavesData s t ∧
        t.flags = s.flags ∧ t.complete = s.complete ∧ t.message = s.message ∧ t.ports = s.ports ∧ t.debugger = s.debugger ∧
        step t = .next u ∧ u.complete = true ∧ u.cycles = 0 ∧ u.pc = s.pc + 1 ∧ LeavesData s u ∧ u.flags = s.flags

/-! ### Port input and output (spec/47_port_io.md) -/

/-- R201, with R203 to R207 and R263: `send`, every row. Its encoding and control-flow class; an invalid operand fails; a
read breakpoint in the window pauses the debugger and no message is posted nor anything asked; else, where the environment
accepts the request made of the window's bytes, the instruction completes and registers, memory and flags are unchanged;
and where it answers otherwise the instruction waits, only the pending message left. (`outcome` and `env` are the model's
fields: log entries 4, 5.) -/
def Obligations.SendResult : Prop :=
  ((∀ p z m, encodeBits (.sendRRM p z m) = natBits 6 48 ++ (natBits 3 p.code ++ (natBits 3 z.code ++ (Arg.M m).bits))) ∧
      (∀ p v m, encodeBits (.sendRIM p v m) = natBits 6 49 ++ (natBits 3 p.code ++ (natBits 8 v.toNat ++ (Arg.M m).bits))) ∧
      (∀ v z m, encodeBits (.sendIRM v z m) = natBits 6 50 ++ (natBits 8 v.toNat ++ (natBits 3 z.code ++ (Arg.M m).bits))) ∧
      ∀ v w m, encodeBits (.sendIIM v w m) = natBits 6 51 ++ (natBits 8 v.toNat ++ (natBits 8 w.toNat ++ (Arg.M m).bits))) ∧
    ∀ (i : Instr) (port size : Operand) (win : MemOp) (s : State), FormSend i port size win →
      getControlFlow s.pc i = ioFlow ∧
      (port = .naInvalid ∨ size = .naInvalid → exec i s = .next { s with complete := true, outcome := some .fail }) ∧
      ∀ p z : Byte, readOperand s port = some p → readOperand s size = some z →
        ((∃ k, k < z.toNat ∧ (breakpointAt s (windowByte (effectiveAddress s win) k)).read = true) →
          ∃ t, exec i s = .next t ∧ Waits i s t ∧ t.debugger.mode = .pause ∧ t.message = s.message ∧
            t.env.asked = s.env.asked) ∧
        ((∀ k, k < z.toNat → (breakpointAt s (windowByte (effectiveAddress s win) k)).read = false) →
          (∀ w payload, answerOf (sendRequest s p z (effectiveAddress s win)) s = .success w payload →
            ∃ t, exec i s = .next t ∧
              PortDone i s t p (effectiveAddress s win) z (requestStamp s .sendPending p (effectiveAddress s win) z) w ∧
              ∀ a, t.mem.read a = s.mem.read a) ∧
          ((∀ w payload, answerOf (sendRequest s p z (effectiveAddress s win)) s ≠ .success w payload) →
            ∃ t, exec i s = .next t ∧ Waits i s t ∧
              t.message = pendingMessage s .sendPending p (effectiveAddress s win) z ∧ t.debugger = s.debugger))

/-- R202, with R203 to R207 and R263: `recv`, every row. Its encoding and control-flow class; an invalid operand fails;
where the environment answers with a payload of at most 255 bytes and no write breakpoint stands in its window, the
instruction completes, exactly the window's bytes are written, in order and wrapping, and the message records the window; a
write breakpoint there pauses the debugger and the request stays pending; any other answer makes the instruction wait.
(`outcome` and `env` are the model's fields: log entries 4, 5.) -/
def Obligations.RecvResult : Prop :=
  ((∀ p m, encodeBits (.recvRM p m) = natBits 6 52 ++ (natBits 3 p.code ++ (Arg.M m).bits)) ∧
      ∀ v m, encodeBits (.recvIM v m) = natBits 6 53 ++ (natBits 8 v.toNat ++ (Arg.M m).bits)) ∧
    ∀ (i : Instr) (port : Operand) (win : MemOp) (s : State), FormRecv i port win →
      getControlFlow s.pc i = ioFlow ∧
      (port = .naInvalid → exec i s = .next { s with complete := true, outcome := some .fail }) ∧
      ∀ p : Byte, readOperand s port = some p →
        (∀ w payload, answerOf (recvRequest s p (effectiveAddress s win)) s = .success w payload → payload.length ≤ 255 →
          ((∀ k, k < payload.length → (breakpointAt s (windowByte (effectiveAddress s win) k)).write = false) →
            ∃ t, exec i s = .next t ∧
              PortDone i s t p (effectiveAddress s win) (BitVec.ofNat 8 payload.length)
                (requestStamp s .receivePending p (effectiveAddress s win) 0) w ∧
              (∀ k (h : k < payload.length), t.mem.read (windowByte (effectiveAddress s win) k) = payload[k]) ∧
              ∀ a, payload.length ≤ (a - effectiveAddress s win).toNat → t.mem.read a = s.mem.read a) ∧
          ((∃ k, k < payload.length ∧ (breakpointAt s (windowByte (effectiveAddress s win) k)).write = true) →
            ∃ t, exec i s = .next t ∧ Waits i s t ∧ t.debugger.mode = .pause ∧
              t.message = pendingMessage s .receivePending p (effectiveAddress s win) 0)) ∧
        ((∀ w payload, answerOf (recvRequest s p (effectiveAddress s win)) s ≠ .success w payload) →
          ∃ t, exec i s = .next t ∧ Waits i s t ∧
            t.message = pendingMessage s .receivePending p (effectiveAddress s win) 0 ∧ t.debugger = s.debugger)

/-- The model's record of the requests (log entries 4, 5 and 11): a `send` that no breakpoint stops, and every `recv`, makes
exactly one request of R203, with the window's bytes of R201, uses up one scripted answer, and gives out nothing else but
the hook calls that follow: on success the operation hook's, on a port stall none, on a breakpoint stall that changes the
mode the call of `debugModeChange`. That a `recv` stopped by a breakpoint has used up the answer is the model's choice (log
entry 10). -/
def Obligations.PortRequestsGivenOut : Prop :=
  (∀ (i : Instr) (port size : Operand) (win : MemOp) (s : State) (p z : Byte),
      FormSend i port size win → readOperand s port = some p → readOperand s size = some z →
      (∀ k, k < z.toNat → (breakpointAt s (windowByte (effectiveAddress s win) k)).read = false) →
      ∃ t, exec i s = .next t ∧ t.env.asked = s.env.asked + 1 ∧ t.env.script = s.env.script.tail ∧
        t.env.outputs =
          (if t.outcome = some .success then hookCall i s else []) ++
            .request (sendRequest s p z (effectiveAddress s win)) :: s.env.outputs) ∧
    ∀ (i : Instr) (port : Operand) (win : MemOp) (s : State) (p : Byte),
      FormRecv i port win → readOperand s port = some p →
      ∃ t, exec i s = .next t ∧ t.env.asked = s.env.asked + 1 ∧ t.env.script = s.env.script.tail ∧
        t.env.outputs =
          (if t.outcome = some .success then hookCall i s
            else if t.debugger = s.debugger then []
            else if s.debugger.hooks.debugModeChange then [Output.debugModeChange .pause]
            else []) ++ .request (recvRequest s p (effectiveAddress s win)) :: s.env.outputs ∧
        ((∀ w payload, answerOf (recvRequest s p (effectiveAddress s win)) s ≠ .success w payload) →
          t.outcome = some .stall ∧ t.debugger = s.debugger) ∧
        ∀ (w : Nat) (payload : List Byte) (k : Nat),
          answerOf (recvRequest s p (effectiveAddress s win)) s = .success w payload → payload.length ≤ 255 →
          k < payload.length → (breakpointAt s (windowByte (effectiveAddress s win) k)).write = true →
          t.outcome = some .stall ∧ t.debugger.mode = .pause

/-- A waiting `send` or `recv` that is stepped again makes the same request again, its stamp included, whatever the budget
has become (R204, R206), so only the environment decides how long it waits; a `recv` stopped by a breakpoint too, whose
request stays pending (R263). -/
def Obligations.RetryRepeatsRequest : Prop :=
  (∀ (i : Instr) (port size : Operand) (win : MemOp) (s t : State) (p z : Byte),
      FormSend i port size win → readOperand s port = some p → readOperand s size = some z → exec i s = .next t →
      t.outcome = some .stall → t.debugger.mode = s.debugger.mode → s.debugger.mode = .continue →
      ∀ c, readOperand { t with cycles := c } port = some p ∧ readOperand { t with cycles := c } size = some z ∧
        sendRequest { t with cycles := c } p z (effectiveAddress { t with cycles := c } win) =
          sendRequest s p z (effectiveAddress s win)) ∧
    ∀ (i : Instr) (port : Operand) (win : MemOp) (s t : State) (p : Byte),
      FormRecv i port win → readOperand s port = some p → exec i s = .next t → t.outcome = some .stall →
      ∀ c, readOperand { t with cycles := c } port = some p ∧
        recvRequest { t with cycles := c } p (effectiveAddress { t with cycles := c } win) =
          recvRequest s p (effectiveAddress s win)

/-! ### The operations of the host -/

/-- R257: `SetCycles(n)` replaces the budget by `n` cycles, `AddProcessingTime` adds the seconds' cycles to it; both clear
`complete` and pay the residual wait first, keeping of it what they cannot pay. The rest of the message and every other part
of the spec's state are unchanged. Seconds are rationals (log entry 13). -/
def Obligations.RefillPaysWaitFirst : Prop :=
  ∀ (s t : State) (n : Nat) (q : Rat),
    (t = setCycles n s →
        t.complete = false ∧ t.cycles = n - s.message.wait ∧
          t.message = { s.message with wait := s.message.wait - n }) ∧
      (t = addProcessingTime q s →
        t.complete = false ∧ t.cycles = s.cycles + (q * 400).floor.toNat - s.message.wait ∧
          t.message = { s.message with wait := s.message.wait - (s.cycles + (q * 400).floor.toNat) }) ∧
      (t = setCycles n s ∨ t = addProcessingTime q s →
        t.regs = s.regs ∧ t.flags = s.flags ∧ t.pc = s.pc ∧ t.mem = s.mem ∧ t.ports = s.ports ∧
          t.debugger = s.debugger)

/-- R209, R283: a port attached to a connection has it, detached has none, twice detached is once detached, no other port
changes. `Destroy` disconnects every connected port, once each, and ends the processor: every later call is refused (as
spec/93_implementation_defined.md U16 says). The record of hook calls, the number that stands for a connection and what
`GetPort` answers are the model's (log entries 11, 12); the order in which `Destroy` takes the ports is not said here. -/
def Obligations.ConnectAndDisconnect : Prop :=
  ∀ (s : State) (p q : Byte) (c : Nat),
    getPort (connect p c s) p = some c ∧ getPort (disconnect p s) p = none ∧
      disconnect p (disconnect p s) = disconnect p s ∧
      (q ≠ p → getPort (connect p c s) q = getPort s q ∧ getPort (disconnect p s) q = getPort s q) ∧
      getPort (disconnectAll s) p = none ∧
      (∃ calls, call .destroy (.alive s) = .ok (.destroyed (calls ++ s.env.outputs)) ∧ calls.Nodup ∧
        ∀ o, o ∈ calls ↔
          s.debugger.hooks.portConnectionChange = true ∧ ∃ x, o = .portConnectionChange x ∧ getPort s x ≠ none) ∧
      ∀ P, call .destroy (.alive s) = .ok P →
        (∀ op, call op P = .error .destroyedProcessor) ∧ ∀ x, callGetPort x P = .error .destroyedProcessor

/-! ### The execution-graph builder (spec/50_execution_graph.md) -/

/-- R221, R222, R223: every call of `BuildBlock` that is not refused keeps how the blocks lie, from every graph in which
they lie so, and the empty graph is one: no address belongs to two blocks, the nodes of a block are contiguous from its
start and fill its range, and every node is what its bytes decode to. (That blocks are numbered is the model's: log entry
18.) -/
def Obligations.GraphBlocksAreDisjoint : Prop :=
  ∀ m : Memory, Graph.empty.Layout m ∧
    ∀ (g g' : Graph) (p : Byte) (r : Option Nat), g.Layout m → buildBlock g m p = .ok (g', r) → g'.Layout m

/-- R227, R230, R232 (d), R223: every call of `BuildBlock` that is not refused keeps where the jump references lead, from
every graph of blocks that lie as they should: a jump with a static target refers to the block that holds that target as a
node, or to none where no instruction decodes there; every other node refers to none; and no target lies inside a decoded
instruction. -/
def Obligations.GraphJumpsReachTargets : Prop :=
  ∀ m : Memory, Graph.empty.JumpsReach m ∧
    ∀ (g g' : Graph) (p : Byte) (r : Option Nat), g.Layout m → g.JumpsReach m → buildBlock g m p = .ok (g', r) →
      g'.JumpsReach m

/-- R226, R231, R223: every call of `BuildBlock` that is not refused keeps where blocks end, from every graph of blocks that
lie as they should: a node that is an unconditional branch or `hlt` is the last of its block, and a block ends with such a
node, before bytes that decode to no instruction, or after 256 bytes, at its own start. -/
def Obligations.GraphStopsEndBlocks : Prop :=
  ∀ m : Memory, Graph.empty.StopsEndBlocks m ∧
    ∀ (g g' : Graph) (p : Byte) (r : Option Nat), g.Layout m → g.StopsEndBlocks m → buildBlock g m p = .ok (g', r) →
      g'.StopsEndBlocks m

/-- R234: the builder terminates, on every call of `BuildBlock` (R223): from a graph whose blocks lie as they should its fuel
never runs out (log entry 18), so it gives a graph or refuses the image as R232 says. -/
def Obligations.GraphBuilderTerminates : Prop :=
  ∀ (m : Memory) (g : Graph) (p : Byte), g.Layout m → buildBlock g m p ≠ .error .noAnswer

/-- R224, R230: what `BuildBlock` gives, where it is not refused. An address already mapped: the graph as it is, and the block
whose range holds the address, whether or not a node stands there. An address not mapped: none, and no block more, where no
instruction decodes there; else a block that holds it as a node. -/
def Obligations.GraphHoldsStart : Prop :=
  ∀ (m : Memory) (g g' : Graph) (p : Byte) (r : Option Nat), g.Layout m → buildBlock g m p = .ok (g', r) →
    (∀ b ∈ g.blocks, b.covers p = true → g' = g ∧ r = some b.id) ∧
      ((∀ b ∈ g.blocks, b.covers p = false) →
        (decode (m.bytes p 5) = none → g'.blocks = g.blocks ∧ r = none) ∧
          ((decode (m.bytes p 5)).isSome = true → ∃ b ∈ g'.blocks, r = some b.id ∧ b.hasNode p = true))

/-- R235: the worked example. -/
def Obligations.GraphWorkedExample : Prop :=
  ∃ g b n, build (memoryFrom 0 [0x12, 0x00, 0x00, 0x12, 0x81, 0x80, 0x0D, 0x14, 0x1A, 0x80, 0x80, 0x8F, 0xEC, 0x80]) 0 =
      .ok g ∧
    g.blocks = [b] ∧ b.start = 0 ∧ b.length = 14 ∧ b.nodes.length = 6 ∧ b.nodes[4]? = some n ∧ n.jump = some b.id
end

