-- ==== Sys2Proof/Laws/Codec.lean ====
section
/-! SUPPORT. Lemmas of the codec: widths, the bits of a number, and one field read back from the stream it was written
to. -/

namespace Sys2Proof

/-! ### Widths -/

@[simp] theorem natBits_length (w n : Nat) : (natBits w n).length = w := by
  induction w with
  | zero => rfl
  | succ w ih => simp [natBits, ih]

@[simp] theorem packBytes_length (n : Nat) (bs : Bits) : (packBytes n bs).length = n := by
  induction n generalizing bs with
  | zero => rfl
  | succ n ih => simp [packBytes, ih]

theorem MemOp.bits_length (m : MemOp) : m.bits.length = m.width := by
  cases m <;> simp [MemOp.bits, MemOp.width]

/-- A field has as many bits as its width says (spec/30_encoding.md R63). -/
theorem Arg.bits_length (a : Arg) : a.bits.length = a.width := by
  cases a with
  | I v => simp [Arg.bits, Arg.width]
  | Rel v => simp [Arg.bits, Arg.width]
  | R r => simp [Arg.bits, Arg.width]
  | M m => exact MemOp.bits_length m
  | RM o =>
    cases o with
    | reg r => simp [Arg.bits, Arg.width]
    | mem m => simp [Arg.bits, Arg.width, MemOp.bits_length]

/-- The encoder writes as many bits as the instruction has (R72). -/
theorem encodeBits_length (i : Instr) : (encodeBits i).length = i.bitLength := by
  simp [encodeBits, Instr.bitLength, List.length_flatMap, Arg.bits_length]

theorem MemOp.width_le (m : MemOp) : m.width ≤ 12 := by cases m <;> simp [MemOp.width]

theorem RMOp.width_le (o : RMOp) : (Arg.RM o).width ≤ 13 := by
  cases o with
  | reg r => simp [Arg.width]
  | mem m => have := MemOp.width_le m; simp [Arg.width]; omega

/-! ### Numbers and bits -/

theorem bitsNat_append (as bs : Bits) : bitsNat (as ++ bs) = bitsNat as * 2 ^ bs.length + bitsNat bs := by
  induction bs using List.reverseRecOn with
  | nil => simp [bitsNat]
  | append_singleton bs b ih =>
    have h : ∀ l : Bits, bitsNat (l ++ [b]) = 2 * bitsNat l + b.toNat := fun l => by simp [bitsNat]
    rw [← List.append_assoc, h, ih, h, List.length_append, pow_add]
    simp only [List.length_singleton, pow_one]
    ring

/-- The low bits of a number, as a number again. -/
theorem bitsNat_natBits (w n : Nat) : bitsNat (natBits w n) = n % 2 ^ w := by
  induction w with
  | zero => simp [natBits, bitsNat, Nat.mod_one]
  | succ w ih =>
    have h : natBits (w + 1) n = [n.testBit w] ++ natBits w n := rfl
    have h1 : bitsNat [n.testBit w] = n / 2 ^ w % 2 := by simp [bitsNat, Nat.toNat_testBit]
    rw [h, bitsNat_append, ih, natBits_length, h1, Nat.mod_pow_succ, Nat.mul_comm, Nat.add_comm]

/-- A number written at the front of the stream is read back (R61). -/
theorem frontBits_natBits (w n : Nat) (rest : Bits) : frontBits w (natBits w n ++ rest) = n % 2 ^ w := by
  have : ((natBits w n ++ rest ++ List.replicate w false).take w) = natBits w n := by
    rw [List.append_assoc, List.take_append_of_le_length (by simp), List.take_of_length_le (by simp)]
  rw [frontBits, this, bitsNat_natBits]

@[simp] theorem drop_natBits (w n : Nat) (rest : Bits) : (natBits w n ++ rest).drop w = rest := by
  rw [List.drop_append_of_le_length (by simp), List.drop_of_length_le (by simp), List.nil_append]

/-- A byte written at the front of the stream is read back. -/
@[simp] theorem frontByte_natBits (v : Byte) (rest : Bits) :
    BitVec.ofNat 8 (frontBits 8 (natBits 8 v.toNat ++ rest)) = v := by
  rw [frontBits_natBits, Nat.mod_eq_of_lt v.isLt, BitVec.ofNat_toNat, BitVec.setWidth_eq]

/-! ### Fields -/

@[simp] theorem decodeGReg_index (g : GReg) : decodeGReg g.index = g := by cases g <;> rfl

theorem GReg.index_lt (g : GReg) : g.index < 4 := by cases g <;> decide

@[simp] theorem frontGReg (g : GReg) (rest : Bits) :
    decodeGReg (frontBits 2 (natBits 2 g.index ++ rest)) = g := by
  rw [frontBits_natBits, Nat.mod_eq_of_lt (by have := GReg.index_lt g; omega), decodeGReg_index]

@[simp] theorem decodeReg_code (r : RegOp) : decodeReg r.code = r := by
  cases r with
  | naInvalid => rfl
  | reg r => cases r with
    | gp g => cases g <;> rfl
    | flags => rfl
    | pc => rfl

theorem RegOp.code_lt (r : RegOp) : r.code < 8 := by
  cases r with
  | naInvalid => decide
  | reg r => cases r with
    | gp g => cases g <;> decide
    | flags => decide
    | pc => decide

@[simp] theorem frontReg (r : RegOp) (rest : Bits) : decodeReg (frontBits 3 (natBits 3 r.code ++ rest)) = r := by
  rw [frontBits_natBits, Nat.mod_eq_of_lt (by have := RegOp.code_lt r; omega), decodeReg_code]

end Sys2Proof
end

