-- ==== Sys2Proof/Laws/Memory.lean ====
section
/-! SUPPORT. The laws of sparse maps and of memory: a read after a write gives the value written, a write leaves every
other place alone, and every operation keeps the canonical form. -/

namespace Sys2Proof.Machine

open Sys2Proof

variable {α : Type}

/-! ### Reading after writing -/

theorem look_remove (d : α) (l : List (Nat × α)) (a b : Nat) :
    look d (remove l a) b = if b = a then d else look d l b := by
  induction l with
  | nil => simp [remove, look]
  | cons c l ih =>
    obtain ⟨k, v⟩ := c
    by_cases hk : k = a
    · subst hk
      have : remove ((k, v) :: l) k = remove l k := by simp [remove]
      rw [this, ih]
      by_cases hb : b = k
      · simp [hb]
      · simp [hb, look, Ne.symm hb]
    · have : remove ((k, v) :: l) a = (k, v) :: remove l a := by simp [remove, hk]
      rw [this]
      simp only [look, ih]
      by_cases hb : b = a
      · subst hb; simp [hk]
      · simp [hb]

theorem look_insertAt (d : α) (l : List (Nat × α)) (a : Nat) (v : α) (b : Nat) (h : ∀ c ∈ l, c.1 ≠ a) :
    look d (insertAt l a v) b = if b = a then v else look d l b := by
  induction l with
  | nil => simp [insertAt, look, eq_comm]
  | cons c l ih =>
    obtain ⟨k, w⟩ := c
    have hk : k ≠ a := h (k, w) (by simp)
    have ih := ih fun c hc => h c (by simp [hc])
    unfold insertAt
    split
    · by_cases hb : b = a
      · simp [look, hb]
      · simp [look, hb, Ne.symm hb]
    · simp only [look, ih]
      by_cases hb : b = a
      · subst hb; simp [hk]
      · simp [hb]

theorem mem_remove_ne (l : List (Nat × α)) (a : Nat) : ∀ c ∈ remove l a, c.1 ≠ a := by
  intro c hc
  simpa [remove] using (List.mem_filter.mp hc).2

variable [DecidableEq α]

/-- The value at any key after one key was written. -/
theorem look_put (d : α) (l : List (Nat × α)) (a : Nat) (v : α) (b : Nat) :
    look d (put d l a v) b = if b = a then v else look d l b := by
  unfold put
  split
  · rename_i h; rw [look_remove, h]
  · rw [look_insertAt d _ a v b (mem_remove_ne l a), look_remove]
    by_cases hb : b = a <;> simp [hb]

/-! ### The canonical form -/

/-- The canonical form as a proposition: keys strictly rising, below 256, no default entry. -/
theorem sparseWf_iff (d : α) (l : List (Nat × α)) :
    sparseWf d l = true ↔ l.Pairwise (fun c e => c.1 < e.1) ∧ ∀ c ∈ l, c.1 < 256 ∧ c.2 ≠ d := by
  induction l with
  | nil => simp [sparseWf]
  | cons c l ih =>
    obtain ⟨k, v⟩ := c
    simp only [sparseWf, Bool.and_eq_true, decide_eq_true_eq, List.all_eq_true, ih, List.pairwise_cons,
      List.mem_cons, forall_eq_or_imp]
    tauto

theorem sparseWf_remove (d : α) (l : List (Nat × α)) (a : Nat) (h : sparseWf d l = true) :
    sparseWf d (remove l a) = true := by
  rw [sparseWf_iff] at h ⊢
  exact ⟨h.1.filter _, fun c hc => h.2 c (List.mem_filter.mp hc).1⟩

theorem mem_insertAt (l : List (Nat × α)) (a : Nat) (v : α) (c : Nat × α) :
    c ∈ insertAt l a v ↔ c = (a, v) ∨ c ∈ l := by
  induction l with
  | nil => simp [insertAt]
  | cons e l ih =>
    obtain ⟨k, w⟩ := e
    unfold insertAt
    split
    · simp
    · simp only [List.mem_cons, ih]; tauto

theorem sparseWf_insertAt (d : α) (l : List (Nat × α)) (a : Nat) (v : α) (h : sparseWf d l = true)
    (ha : a < 256) (hv : v ≠ d) (hl : ∀ c ∈ l, c.1 ≠ a) : sparseWf d (insertAt l a v) = true := by
  rw [sparseWf_iff] at h ⊢
  refine ⟨?_, ?_⟩
  · obtain ⟨hp, -⟩ := h
    induction l with
    | nil => simp [insertAt]
    | cons e l ih =>
      obtain ⟨k, w⟩ := e
      rw [List.pairwise_cons] at hp
      unfold insertAt
      split
      · rename_i hk
        refine List.pairwise_cons.mpr ⟨?_, List.pairwise_cons.mpr hp⟩
        intro c hc
        rcases List.mem_cons.mp hc with rfl | hc
        · exact hk
        · exact lt_trans hk (hp.1 c hc)
      · rename_i hk
        refine List.pairwise_cons.mpr ⟨?_, ih (fun c hc => hl c (by simp [hc])) hp.2⟩
        intro c hc
        have hka : k ≠ a := hl (k, w) (by simp)
        rcases (mem_insertAt l a v c).mp hc with rfl | hc
        · simp only at hk ⊢; omega
        · exact hp.1 c hc
  · intro c hc
    rcases (mem_insertAt l a v c).mp hc with rfl | hc
    · exact ⟨ha, hv⟩
    · exact h.2 c hc

/-- Writing a key below 256 keeps the canonical form. -/
theorem sparseWf_put (d : α) (l : List (Nat × α)) (a : Nat) (v : α) (h : sparseWf d l = true) (ha : a < 256) :
    sparseWf d (put d l a v) = true := by
  unfold put
  split
  · exact sparseWf_remove d l a h
  · rename_i hv
    exact sparseWf_insertAt d _ a v (sparseWf_remove d l a h) ha hv (mem_remove_ne l a)

/-! ### Memory -/

/-- A read after a write (spec/20_memory.md R42, R43). -/
theorem Memory.read_write (m : Memory) (a v b : Byte) :
    (m.write a v).read b = if b = a then v else m.read b := by
  simp only [Memory.read, Memory.write, look_put, BitVec.toNat_inj]

@[simp] theorem Memory.read_write_self (m : Memory) (a v : Byte) : (m.write a v).read a = v := by
  simp [Memory.read_write]

/-- A write keeps the canonical form. -/
theorem Memory.wf_write (m : Memory) (a v : Byte) (h : m.wf = true) : (m.write a v).wf = true :=
  sparseWf_put _ m a.toNat v h a.isLt

/-- Storing bytes keeps the canonical form. -/
theorem Memory.wf_store (m : Memory) (a : Byte) (vs : List Byte) (h : m.wf = true) : (m.store a vs).wf = true := by
  induction vs generalizing m a with
  | nil => exact h
  | cons v vs ih => exact ih _ _ (Memory.wf_write m a v h)

/-- What reading any address gives after at most 256 bytes were stored from an address on (spec/47_port_io.md R202). -/
theorem Memory.read_store (m : Memory) (a : Byte) (vs : List Byte) (b : Byte) (h : vs.length ≤ 256) :
    (m.store a vs).read b = vs.getD (b - a).toNat (m.read b) := by
  induction vs generalizing m a with
  | nil => simp [Memory.store]
  | cons v vs ih =>
    have hlen : vs.length ≤ 255 := by rw [List.length_cons] at h; omega
    rw [Memory.store, ih _ _ (by omega), Memory.read_write]
    by_cases hb : b = a
    · subst hb
      have h1 : (b - (b + 1)).toNat = 255 := by
        have : b - (b + 1) = 255 := by bv_omega
        rw [this]; rfl
      have h2 : (b - b).toNat = 0 := by simp
      rw [h1, h2, if_pos rfl]
      rw [List.getD_eq_default _ _ hlen]; rfl
    · have h1 : (b - a).toNat = (b - (a + 1)).toNat + 1 := by
        have hne : (b - a) ≠ 0 := fun h => hb (by bv_omega)
        bv_omega
      rw [h1, if_neg hb, List.getD_cons_succ]

@[simp] theorem Memory.bytes_length (m : Memory) (a : Byte) (n : Nat) : (m.bytes a n).length = n := by
  simp [Memory.bytes]

/-- Byte `k` of consecutive bytes is the byte at the address `k` further on (spec/20_memory.md R40, R41). -/
theorem Memory.bytes_getElem (m : Memory) (a : Byte) (n k : Nat) (h : k < (m.bytes a n).length) :
    (m.bytes a n)[k] = m.read (a + BitVec.ofNat 8 k) := by
  simp [Memory.bytes]

/-! ### Memory from an image -/

theorem look_memoryFrom_lt (vs : List Byte) (a b : Nat) (h : b < a) : look unlistedByte (memoryFrom a vs) b = unlistedByte := by
  induction vs generalizing a with
  | nil => rfl
  | cons v vs ih =>
    unfold memoryFrom
    split
    · exact ih (a + 1) (by omega)
    · have hne : a ≠ b := by omega
      simp only [look, hne, if_false]
      exact ih (a + 1) (by omega)

/-- Reading the memory made from consecutive bytes gives them back. -/
theorem look_memoryFrom (vs : List Byte) (a b : Nat) (h : a ≤ b) :
    look unlistedByte (memoryFrom a vs) b = vs.getD (b - a) unlistedByte := by
  induction vs generalizing a with
  | nil => simp [memoryFrom, look]
  | cons v vs ih =>
    rcases Nat.eq_or_lt_of_le h with rfl | hlt
    · unfold memoryFrom
      split
      · rename_i hv
        rw [look_memoryFrom_lt vs (a + 1) a (by omega)]
        simp [hv]
      · simp [look]
    · have hne : a ≠ b := by omega
      have hb : b - a = (b - (a + 1)) + 1 := by omega
      unfold memoryFrom
      split
      · rw [ih (a + 1) (by omega), hb, List.getD_cons_succ]
      · simp only [look, hne, if_false]
        rw [ih (a + 1) (by omega), hb, List.getD_cons_succ]

theorem mem_memoryFrom (vs : List Byte) (a : Nat) :
    ∀ c ∈ memoryFrom a vs, a ≤ c.1 ∧ c.1 < a + vs.length ∧ c.2 ≠ unlistedByte := by
  induction vs generalizing a with
  | nil => simp [memoryFrom]
  | cons v vs ih =>
    intro c hc
    rw [List.length_cons]
    unfold memoryFrom at hc
    split at hc
    · have := ih (a + 1) c hc
      exact ⟨by omega, by omega, this.2.2⟩
    · rename_i hv
      rcases List.mem_cons.mp hc with rfl | hc
      · exact ⟨le_refl _, by omega, hv⟩
      · have := ih (a + 1) c hc
        exact ⟨by omega, by omega, this.2.2⟩

/-- The memory made from an image is in canonical form. -/
theorem wf_memoryFrom (vs : List Byte) (a : Nat) (h : a + vs.length ≤ 256) : Memory.wf (memoryFrom a vs) = true := by
  rw [Memory.wf, sparseWf_iff]
  refine ⟨?_, fun c hc => ⟨by have := mem_memoryFrom vs a c hc; omega, (mem_memoryFrom vs a c hc).2.2⟩⟩
  induction vs generalizing a with
  | nil => simp [memoryFrom]
  | cons v vs ih =>
    have hlen : (v :: vs).length = vs.length + 1 := rfl
    unfold memoryFrom
    split
    · exact ih (a + 1) (by omega)
    · refine List.pairwise_cons.mpr ⟨fun c hc => ?_, ih (a + 1) (by omega)⟩
      have := mem_memoryFrom vs (a + 1) c hc
      show a < c.1
      omega

end Sys2Proof.Machine
end

