-- ==== Sys2Proof/Laws/State.lean ====
section
/-! SUPPORT. What each named update of the state does to each field: one lemma per field per update. -/

namespace Sys2Proof.Machine

open Sys2Proof

@[simp] theorem emit_regs (o : Output) (s : State) : (emit o s).regs = s.regs := rfl
@[simp] theorem emit_flags (o : Output) (s : State) : (emit o s).flags = s.flags := rfl
@[simp] theorem emit_pc (o : Output) (s : State) : (emit o s).pc = s.pc := rfl
@[simp] theorem emit_mem (o : Output) (s : State) : (emit o s).mem = s.mem := rfl
@[simp] theorem emit_cycles (o : Output) (s : State) : (emit o s).cycles = s.cycles := rfl
@[simp] theorem emit_complete (o : Output) (s : State) : (emit o s).complete = s.complete := rfl
@[simp] theorem emit_message (o : Output) (s : State) : (emit o s).message = s.message := rfl
@[simp] theorem emit_ports (o : Output) (s : State) : (emit o s).ports = s.ports := rfl
@[simp] theorem emit_debug (o : Output) (s : State) : (emit o s).debugger = s.debugger := rfl
@[simp] theorem emit_outcome (o : Output) (s : State) : (emit o s).outcome = s.outcome := rfl

@[simp] theorem emit_outputs (o : Output) (s : State) : (emit o s).env.outputs = o :: s.env.outputs := rfl
@[simp] theorem emit_script (o : Output) (s : State) : (emit o s).env.script = s.env.script := rfl
@[simp] theorem emit_asked (o : Output) (s : State) : (emit o s).env.asked = s.env.asked := rfl

@[simp] theorem emitIf_regs (h : Bool) (o : Output) (s : State) : (emitIf h o s).regs = s.regs := by
  cases h <;> rfl
@[simp] theorem emitIf_flags (h : Bool) (o : Output) (s : State) : (emitIf h o s).flags = s.flags := by
  cases h <;> rfl
@[simp] theorem emitIf_pc (h : Bool) (o : Output) (s : State) : (emitIf h o s).pc = s.pc := by
  cases h <;> rfl
@[simp] theorem emitIf_mem (h : Bool) (o : Output) (s : State) : (emitIf h o s).mem = s.mem := by
  cases h <;> rfl
@[simp] theorem emitIf_cycles (h : Bool) (o : Output) (s : State) : (emitIf h o s).cycles = s.cycles := by
  cases h <;> rfl
@[simp] theorem emitIf_complete (h : Bool) (o : Output) (s : State) : (emitIf h o s).complete = s.complete := by
  cases h <;> rfl
@[simp] theorem emitIf_message (h : Bool) (o : Output) (s : State) : (emitIf h o s).message = s.message := by
  cases h <;> rfl
@[simp] theorem emitIf_ports (h : Bool) (o : Output) (s : State) : (emitIf h o s).ports = s.ports := by
  cases h <;> rfl
@[simp] theorem emitIf_debug (h : Bool) (o : Output) (s : State) : (emitIf h o s).debugger = s.debugger := by
  cases h <;> rfl
@[simp] theorem emitIf_outcome (h : Bool) (o : Output) (s : State) : (emitIf h o s).outcome = s.outcome := by
  cases h <;> rfl
@[simp] theorem emitIf_script (h : Bool) (o : Output) (s : State) : (emitIf h o s).env.script = s.env.script := by
  cases h <;> rfl
@[simp] theorem emitIf_asked (h : Bool) (o : Output) (s : State) : (emitIf h o s).env.asked = s.env.asked := by
  cases h <;> rfl
@[simp] theorem emitIf_outputs (h : Bool) (o : Output) (s : State) :
    (emitIf h o s).env.outputs = if h then o :: s.env.outputs else s.env.outputs := by
  cases h <;> rfl

@[simp] theorem setDebugMode_regs (m : DebugMode) (s : State) : (setDebugMode m s).regs = s.regs := by
  unfold setDebugMode; split <;> simp
@[simp] theorem setDebugMode_flags (m : DebugMode) (s : State) : (setDebugMode m s).flags = s.flags := by
  unfold setDebugMode; split <;> simp
@[simp] theorem setDebugMode_pc (m : DebugMode) (s : State) : (setDebugMode m s).pc = s.pc := by
  unfold setDebugMode; split <;> simp
@[simp] theorem setDebugMode_mem (m : DebugMode) (s : State) : (setDebugMode m s).mem = s.mem := by
  unfold setDebugMode; split <;> simp
@[simp] theorem setDebugMode_cycles (m : DebugMode) (s : State) : (setDebugMode m s).cycles = s.cycles := by
  unfold setDebugMode; split <;> simp
@[simp] theorem setDebugMode_complete (m : DebugMode) (s : State) : (setDebugMode m s).complete = s.complete := by
  unfold setDebugMode; split <;> simp
@[simp] theorem setDebugMode_message (m : DebugMode) (s : State) : (setDebugMode m s).message = s.message := by
  unfold setDebugMode; split <;> simp
@[simp] theorem setDebugMode_ports (m : DebugMode) (s : State) : (setDebugMode m s).ports = s.ports := by
  unfold setDebugMode; split <;> simp
@[simp] theorem setDebugMode_outcome (m : DebugMode) (s : State) : (setDebugMode m s).outcome = s.outcome := by
  unfold setDebugMode; split <;> simp
@[simp] theorem setDebugMode_mode (m : DebugMode) (s : State) : (setDebugMode m s).debugger.mode = m := by
  unfold setDebugMode; split <;> simp_all
@[simp] theorem setDebugMode_breakpoints (m : DebugMode) (s : State) :
    (setDebugMode m s).debugger.breakpoints = s.debugger.breakpoints := by
  unfold setDebugMode; split <;> simp
@[simp] theorem setDebugMode_hooks (m : DebugMode) (s : State) : (setDebugMode m s).debugger.hooks = s.debugger.hooks := by
  unfold setDebugMode; split <;> simp
@[simp] theorem setDebugMode_script (m : DebugMode) (s : State) : (setDebugMode m s).env.script = s.env.script := by
  unfold setDebugMode; split <;> simp
@[simp] theorem setDebugMode_asked (m : DebugMode) (s : State) : (setDebugMode m s).env.asked = s.env.asked := by
  unfold setDebugMode; split <;> simp

@[simp] theorem stopInvalid_regs (s : State) : (stopInvalid s).regs = s.regs := rfl
@[simp] theorem stopInvalid_flags (s : State) : (stopInvalid s).flags = s.flags := rfl
@[simp] theorem stopInvalid_pc (s : State) : (stopInvalid s).pc = s.pc := rfl
@[simp] theorem stopInvalid_mem (s : State) : (stopInvalid s).mem = s.mem := rfl
@[simp] theorem stopInvalid_cycles (s : State) : (stopInvalid s).cycles = s.cycles := rfl
@[simp] theorem stopInvalid_complete (s : State) : (stopInvalid s).complete = true := rfl
@[simp] theorem stopInvalid_message (s : State) : (stopInvalid s).message = s.message := rfl
@[simp] theorem stopInvalid_ports (s : State) : (stopInvalid s).ports = s.ports := rfl
@[simp] theorem stopInvalid_debug (s : State) : (stopInvalid s).debugger = s.debugger := rfl
@[simp] theorem stopInvalid_outcome (s : State) : (stopInvalid s).outcome = some .invalidOpcode := rfl
@[simp] theorem stopInvalid_env (s : State) : (stopInvalid s).env = s.env := rfl

@[simp] theorem stopBudget_regs (s : State) : (stopBudget s).regs = s.regs := rfl
@[simp] theorem stopBudget_flags (s : State) : (stopBudget s).flags = s.flags := rfl
@[simp] theorem stopBudget_pc (s : State) : (stopBudget s).pc = s.pc := rfl
@[simp] theorem stopBudget_mem (s : State) : (stopBudget s).mem = s.mem := rfl
@[simp] theorem stopBudget_cycles (s : State) : (stopBudget s).cycles = s.cycles := rfl
@[simp] theorem stopBudget_complete (s : State) : (stopBudget s).complete = true := rfl
@[simp] theorem stopBudget_message (s : State) : (stopBudget s).message = s.message := rfl
@[simp] theorem stopBudget_ports (s : State) : (stopBudget s).ports = s.ports := rfl
@[simp] theorem stopBudget_debug (s : State) : (stopBudget s).debugger = s.debugger := rfl
@[simp] theorem stopBudget_outcome (s : State) : (stopBudget s).outcome = some .budgetExhausted := rfl
@[simp] theorem stopBudget_env (s : State) : (stopBudget s).env = s.env := rfl

@[simp] theorem stopPaused_regs (s : State) : (stopPaused s).regs = s.regs := rfl
@[simp] theorem stopPaused_flags (s : State) : (stopPaused s).flags = s.flags := rfl
@[simp] theorem stopPaused_pc (s : State) : (stopPaused s).pc = s.pc := rfl
@[simp] theorem stopPaused_mem (s : State) : (stopPaused s).mem = s.mem := rfl
@[simp] theorem stopPaused_cycles (s : State) : (stopPaused s).cycles = s.cycles := rfl
@[simp] theorem stopPaused_complete (s : State) : (stopPaused s).complete = s.complete := rfl
@[simp] theorem stopPaused_message (s : State) : (stopPaused s).message = s.message := rfl
@[simp] theorem stopPaused_ports (s : State) : (stopPaused s).ports = s.ports := rfl
@[simp] theorem stopPaused_debug (s : State) : (stopPaused s).debugger = s.debugger := rfl
@[simp] theorem stopPaused_outcome (s : State) : (stopPaused s).outcome = some .paused := rfl
@[simp] theorem stopPaused_env (s : State) : (stopPaused s).env = s.env := rfl

@[simp] theorem charge_regs (n : Nat) (s : State) : (charge n s).regs = s.regs := rfl
@[simp] theorem charge_flags (n : Nat) (s : State) : (charge n s).flags = s.flags := rfl
@[simp] theorem charge_pc (n : Nat) (s : State) : (charge n s).pc = s.pc := rfl
@[simp] theorem charge_mem (n : Nat) (s : State) : (charge n s).mem = s.mem := rfl
@[simp] theorem charge_cycles (n : Nat) (s : State) : (charge n s).cycles = s.cycles - n := rfl
@[simp] theorem charge_complete (n : Nat) (s : State) : (charge n s).complete = s.complete := rfl
@[simp] theorem charge_message (n : Nat) (s : State) : (charge n s).message = s.message := rfl
@[simp] theorem charge_ports (n : Nat) (s : State) : (charge n s).ports = s.ports := rfl
@[simp] theorem charge_debug (n : Nat) (s : State) : (charge n s).debugger = s.debugger := rfl
@[simp] theorem charge_outcome (n : Nat) (s : State) : (charge n s).outcome = s.outcome := rfl
@[simp] theorem charge_env (n : Nat) (s : State) : (charge n s).env = s.env := rfl

@[simp] theorem concludeStall_regs (i : Instr) (s : State) : (concludeStall i s).regs = s.regs := rfl
@[simp] theorem concludeStall_flags (i : Instr) (s : State) : (concludeStall i s).flags = s.flags := rfl
@[simp] theorem concludeStall_pc (i : Instr) (s : State) : (concludeStall i s).pc = s.pc := rfl
@[simp] theorem concludeStall_mem (i : Instr) (s : State) : (concludeStall i s).mem = s.mem := rfl
@[simp] theorem concludeStall_cycles (i : Instr) (s : State) : (concludeStall i s).cycles = s.cycles + cost i := rfl
@[simp] theorem concludeStall_complete (i : Instr) (s : State) : (concludeStall i s).complete = s.complete := rfl
@[simp] theorem concludeStall_message (i : Instr) (s : State) : (concludeStall i s).message = s.message := rfl
@[simp] theorem concludeStall_ports (i : Instr) (s : State) : (concludeStall i s).ports = s.ports := rfl
@[simp] theorem concludeStall_debug (i : Instr) (s : State) : (concludeStall i s).debugger = s.debugger := rfl
@[simp] theorem concludeStall_outcome (i : Instr) (s : State) : (concludeStall i s).outcome = some .stall := rfl
@[simp] theorem concludeStall_env (i : Instr) (s : State) : (concludeStall i s).env = s.env := rfl

@[simp] theorem concludeFail_regs (s : State) : (concludeFail s).regs = s.regs := rfl
@[simp] theorem concludeFail_flags (s : State) : (concludeFail s).flags = s.flags := rfl
@[simp] theorem concludeFail_pc (s : State) : (concludeFail s).pc = s.pc := rfl
@[simp] theorem concludeFail_mem (s : State) : (concludeFail s).mem = s.mem := rfl
@[simp] theorem concludeFail_cycles (s : State) : (concludeFail s).cycles = s.cycles := rfl
@[simp] theorem concludeFail_complete (s : State) : (concludeFail s).complete = true := rfl
@[simp] theorem concludeFail_message (s : State) : (concludeFail s).message = s.message := rfl
@[simp] theorem concludeFail_ports (s : State) : (concludeFail s).ports = s.ports := rfl
@[simp] theorem concludeFail_debug (s : State) : (concludeFail s).debugger = s.debugger := rfl
@[simp] theorem concludeFail_outcome (s : State) : (concludeFail s).outcome = some .fail := rfl
@[simp] theorem concludeFail_env (s : State) : (concludeFail s).env = s.env := rfl

@[simp] theorem asked_regs (r : PortRequest) (s : State) : (asked r s).regs = s.regs := rfl
@[simp] theorem asked_flags (r : PortRequest) (s : State) : (asked r s).flags = s.flags := rfl
@[simp] theorem asked_pc (r : PortRequest) (s : State) : (asked r s).pc = s.pc := rfl
@[simp] theorem asked_mem (r : PortRequest) (s : State) : (asked r s).mem = s.mem := rfl
@[simp] theorem asked_cycles (r : PortRequest) (s : State) : (asked r s).cycles = s.cycles := rfl
@[simp] theorem asked_complete (r : PortRequest) (s : State) : (asked r s).complete = s.complete := rfl
@[simp] theorem asked_message (r : PortRequest) (s : State) : (asked r s).message = s.message := rfl
@[simp] theorem asked_ports (r : PortRequest) (s : State) : (asked r s).ports = s.ports := rfl
@[simp] theorem asked_debug (r : PortRequest) (s : State) : (asked r s).debugger = s.debugger := rfl
@[simp] theorem asked_outcome (r : PortRequest) (s : State) : (asked r s).outcome = s.outcome := rfl

@[simp] theorem asked_script (r : PortRequest) (s : State) : (asked r s).env.script = s.env.script.tail := rfl
@[simp] theorem asked_asked (r : PortRequest) (s : State) : (asked r s).env.asked = s.env.asked + 1 := rfl
@[simp] theorem asked_outputs (r : PortRequest) (s : State) :
    (asked r s).env.outputs = .request r :: s.env.outputs := rfl

@[simp] theorem post_regs (k : MessageStatus) (p o z : Byte) (s : State) : (post k p o z s).regs = s.regs := by
  unfold post; split <;> rfl
@[simp] theorem post_flags (k : MessageStatus) (p o z : Byte) (s : State) : (post k p o z s).flags = s.flags := by
  unfold post; split <;> rfl
@[simp] theorem post_pc (k : MessageStatus) (p o z : Byte) (s : State) : (post k p o z s).pc = s.pc := by
  unfold post; split <;> rfl
@[simp] theorem post_mem (k : MessageStatus) (p o z : Byte) (s : State) : (post k p o z s).mem = s.mem := by
  unfold post; split <;> rfl
@[simp] theorem post_cycles (k : MessageStatus) (p o z : Byte) (s : State) : (post k p o z s).cycles = s.cycles := by
  unfold post; split <;> rfl
@[simp] theorem post_complete (k : MessageStatus) (p o z : Byte) (s : State) : (post k p o z s).complete = s.complete := by
  unfold post; split <;> rfl
@[simp] theorem post_ports (k : MessageStatus) (p o z : Byte) (s : State) : (post k p o z s).ports = s.ports := by
  unfold post; split <;> rfl
@[simp] theorem post_debug (k : MessageStatus) (p o z : Byte) (s : State) : (post k p o z s).debugger = s.debugger := by
  unfold post; split <;> rfl
@[simp] theorem post_outcome (k : MessageStatus) (p o z : Byte) (s : State) : (post k p o z s).outcome = s.outcome := by
  unfold post; split <;> rfl
@[simp] theorem post_env (k : MessageStatus) (p o z : Byte) (s : State) : (post k p o z s).env = s.env := by
  unfold post; split <;> rfl

@[simp] theorem applyWait_regs (w : Nat) (s : State) : (applyWait w s).regs = s.regs := by
  unfold applyWait; dsimp only; split <;> rfl
@[simp] theorem applyWait_flags (w : Nat) (s : State) : (applyWait w s).flags = s.flags := by
  unfold applyWait; dsimp only; split <;> rfl
@[simp] theorem applyWait_pc (w : Nat) (s : State) : (applyWait w s).pc = s.pc := by
  unfold applyWait; dsimp only; split <;> rfl
@[simp] theorem applyWait_mem (w : Nat) (s : State) : (applyWait w s).mem = s.mem := by
  unfold applyWait; dsimp only; split <;> rfl
@[simp] theorem applyWait_complete (w : Nat) (s : State) : (applyWait w s).complete = s.complete := by
  unfold applyWait; dsimp only; split <;> rfl
@[simp] theorem applyWait_ports (w : Nat) (s : State) : (applyWait w s).ports = s.ports := by
  unfold applyWait; dsimp only; split <;> rfl
@[simp] theorem applyWait_debug (w : Nat) (s : State) : (applyWait w s).debugger = s.debugger := by
  unfold applyWait; dsimp only; split <;> rfl
@[simp] theorem applyWait_outcome (w : Nat) (s : State) : (applyWait w s).outcome = s.outcome := by
  unfold applyWait; dsimp only; split <;> rfl
@[simp] theorem applyWait_env (w : Nat) (s : State) : (applyWait w s).env = s.env := by
  unfold applyWait; dsimp only; split <;> rfl

@[simp] theorem acceptPayload_regs (off : Byte) (p : List Byte) (s : State) : (acceptPayload off p s).regs = s.regs := rfl
@[simp] theorem acceptPayload_flags (off : Byte) (p : List Byte) (s : State) : (acceptPayload off p s).flags = s.flags := rfl
@[simp] theorem acceptPayload_pc (off : Byte) (p : List Byte) (s : State) : (acceptPayload off p s).pc = s.pc := rfl
@[simp] theorem acceptPayload_mem (off : Byte) (p : List Byte) (s : State) : (acceptPayload off p s).mem = s.mem.store off p := rfl
@[simp] theorem acceptPayload_cycles (off : Byte) (p : List Byte) (s : State) : (acceptPayload off p s).cycles = s.cycles := rfl
@[simp] theorem acceptPayload_complete (off : Byte) (p : List Byte) (s : State) : (acceptPayload off p s).complete = s.complete := rfl
@[simp] theorem acceptPayload_ports (off : Byte) (p : List Byte) (s : State) : (acceptPayload off p s).ports = s.ports := rfl
@[simp] theorem acceptPayload_debug (off : Byte) (p : List Byte) (s : State) : (acceptPayload off p s).debugger = s.debugger := rfl
@[simp] theorem acceptPayload_outcome (off : Byte) (p : List Byte) (s : State) : (acceptPayload off p s).outcome = s.outcome := rfl
@[simp] theorem acceptPayload_env (off : Byte) (p : List Byte) (s : State) : (acceptPayload off p s).env = s.env := rfl

@[simp] theorem finishPort_regs (w : Nat) (s : State) : (finishPort w s).regs = s.regs := by
  simp [finishPort]
@[simp] theorem finishPort_flags (w : Nat) (s : State) : (finishPort w s).flags = s.flags := by
  simp [finishPort]
@[simp] theorem finishPort_pc (w : Nat) (s : State) : (finishPort w s).pc = s.pc := by
  simp [finishPort]
@[simp] theorem finishPort_mem (w : Nat) (s : State) : (finishPort w s).mem = s.mem := by
  simp [finishPort]
@[simp] theorem finishPort_complete (w : Nat) (s : State) : (finishPort w s).complete = s.complete := by
  simp [finishPort]
@[simp] theorem finishPort_ports (w : Nat) (s : State) : (finishPort w s).ports = s.ports := by
  simp [finishPort]
@[simp] theorem finishPort_debug (w : Nat) (s : State) : (finishPort w s).debugger = s.debugger := by
  simp [finishPort]
@[simp] theorem finishPort_outcome (w : Nat) (s : State) : (finishPort w s).outcome = s.outcome := by
  simp [finishPort]
@[simp] theorem finishPort_env (w : Nat) (s : State) : (finishPort w s).env = s.env := by
  simp [finishPort]

@[simp] theorem writePlace_cycles (s : State) (p : Place) (v : Byte) : (writePlace s p v).cycles = s.cycles := by
  unfold writePlace writeReg; split <;> (try split) <;> rfl
@[simp] theorem writePlace_complete (s : State) (p : Place) (v : Byte) : (writePlace s p v).complete = s.complete := by
  unfold writePlace writeReg; split <;> (try split) <;> rfl
@[simp] theorem writePlace_message (s : State) (p : Place) (v : Byte) : (writePlace s p v).message = s.message := by
  unfold writePlace writeReg; split <;> (try split) <;> rfl
@[simp] theorem writePlace_ports (s : State) (p : Place) (v : Byte) : (writePlace s p v).ports = s.ports := by
  unfold writePlace writeReg; split <;> (try split) <;> rfl
@[simp] theorem writePlace_debug (s : State) (p : Place) (v : Byte) : (writePlace s p v).debugger = s.debugger := by
  unfold writePlace writeReg; split <;> (try split) <;> rfl
@[simp] theorem writePlace_outcome (s : State) (p : Place) (v : Byte) : (writePlace s p v).outcome = s.outcome := by
  unfold writePlace writeReg; split <;> (try split) <;> rfl
@[simp] theorem writePlace_env (s : State) (p : Place) (v : Byte) : (writePlace s p v).env = s.env := by
  unfold writePlace writeReg; split <;> (try split) <;> rfl

@[simp] theorem concludeSuccess_regs (i : Instr) (s t : State) (b : Bool) : (concludeSuccess i s t b).regs = t.regs := by
  simp [concludeSuccess]
@[simp] theorem concludeSuccess_flags (i : Instr) (s t : State) (b : Bool) : (concludeSuccess i s t b).flags = t.flags := by
  simp [concludeSuccess]
@[simp] theorem concludeSuccess_mem (i : Instr) (s t : State) (b : Bool) : (concludeSuccess i s t b).mem = t.mem := by
  simp [concludeSuccess]
@[simp] theorem concludeSuccess_cycles (i : Instr) (s t : State) (b : Bool) : (concludeSuccess i s t b).cycles = t.cycles := by
  simp [concludeSuccess]
@[simp] theorem concludeSuccess_complete (i : Instr) (s t : State) (b : Bool) : (concludeSuccess i s t b).complete = t.complete := by
  simp [concludeSuccess]
@[simp] theorem concludeSuccess_message (i : Instr) (s t : State) (b : Bool) : (concludeSuccess i s t b).message = t.message := by
  simp [concludeSuccess]
@[simp] theorem concludeSuccess_ports (i : Instr) (s t : State) (b : Bool) : (concludeSuccess i s t b).ports = t.ports := by
  simp [concludeSuccess]
@[simp] theorem concludeSuccess_debug (i : Instr) (s t : State) (b : Bool) : (concludeSuccess i s t b).debugger = t.debugger := by
  simp [concludeSuccess]
@[simp] theorem concludeSuccess_outcome (i : Instr) (s t : State) (b : Bool) :
    (concludeSuccess i s t b).outcome = some .success := rfl
@[simp] theorem concludeSuccess_pc (i : Instr) (s t : State) (b : Bool) :
    (concludeSuccess i s t b).pc = if b then t.pc else s.pc + BitVec.ofNat 8 i.length := by
  simp [concludeSuccess]
@[simp] theorem concludeSuccess_script (i : Instr) (s t : State) (b : Bool) :
    (concludeSuccess i s t b).env.script = t.env.script := by
  simp [concludeSuccess]
@[simp] theorem concludeSuccess_asked (i : Instr) (s t : State) (b : Bool) :
    (concludeSuccess i s t b).env.asked = t.env.asked := by
  simp [concludeSuccess]
@[simp] theorem concludeSuccess_outputs (i : Instr) (s t : State) (b : Bool) :
    (concludeSuccess i s t b).env.outputs =
      if t.debugger.hooks.operation then .operation (s.mem.bytes s.pc i.length) (decodedAt i s) :: t.env.outputs
      else t.env.outputs := by
  simp [concludeSuccess]

/-! ### The register file -/

@[simp] theorem Regs.get_set_self (r : Regs) (g : GReg) (v : Byte) : (r.set g v).get g = v := by cases g <;> rfl

theorem Regs.get_set (r : Regs) (g h : GReg) (v : Byte) :
    (r.set g v).get h = if h = g then v else r.get h := by
  cases g <;> cases h <;> rfl

end Sys2Proof.Machine
end

