-- ==== Sys2Proof/Laws/Ops.lean ====
section
/-! SUPPORT. For each shared operation one lemma that says once everything it can do. -/

namespace Sys2Proof.Machine

open Sys2Proof

/-! ### Resolving, reading and writing operands -/

/-- An operand resolves unless it is absent or invalid (R113). -/
theorem resolve_eq_none (s : State) (o : Operand) : resolve s o = none ↔ o = .na ∨ o = .naInvalid := by
  cases o <;> simp [resolve]

theorem readOperand_eq_some (s : State) (o : Operand) (v : Byte) :
    readOperand s o = some v ↔ ∃ p, resolve s o = some p ∧ readPlace s p = v := by
  simp [readOperand, Option.map_eq_some_iff]

/-- What a written place leaves in the general registers. -/
theorem writePlace_regs_get (s : State) (p : Place) (v : Byte) (g : GReg) :
    (writePlace s p v).regs.get g = if p = .register (.gp g) then v else s.regs.get g := by
  cases p with
  | value w => simp [writePlace]
  | cell a => simp [writePlace]
  | register r =>
    cases r with
    | gp h => simp [writePlace, writeReg, Regs.get_set, eq_comm]
    | flags => simp [writePlace, writeReg]
    | pc => simp [writePlace, writeReg]

/-- What a written place leaves in memory. -/
theorem writePlace_read (s : State) (p : Place) (v a : Byte) :
    (writePlace s p v).mem.read a = if p = .cell a then v else s.mem.read a := by
  cases p with
  | value w => simp [writePlace]
  | cell b => simp [writePlace, Memory.read_write, eq_comm]
  | register r => cases r <;> simp [writePlace, writeReg]

/-- What a written place leaves in `pc`. -/
theorem writePlace_pc (s : State) (p : Place) (v : Byte) :
    (writePlace s p v).pc = if repositions p then v else s.pc := by
  cases p with
  | value w => simp [writePlace, repositions]
  | cell b => simp [writePlace, repositions]
  | register r => cases r <;> simp [writePlace, writeReg, repositions]

/-- What a written place leaves in `flags`. -/
theorem writePlace_flags (s : State) (p : Place) (v : Byte) :
    (writePlace s p v).flags = if p = .register .flags then v else s.flags := by
  cases p with
  | value w => simp [writePlace]
  | cell b => simp [writePlace]
  | register r => cases r <;> simp [writePlace, writeReg]

/-- A write keeps the canonical form of memory. -/
theorem writePlace_wf (s : State) (p : Place) (v : Byte) (h : s.mem.wf = true) : (writePlace s p v).mem.wf = true := by
  cases p with
  | value w => exact h
  | cell b => exact Memory.wf_write _ _ _ h
  | register r => cases r <;> exact h

/-! ### The templates: the three ways each can end -/

/-- `Exec2` fails on an invalid operand, stalls on a breakpoint, or writes the result and the flags (R117). -/
theorem exec2_cases (op : Byte → Byte → Byte × Byte) (dst src : Operand) (s : State) :
    (exec2 op dst src s = .fail s ∧ (resolve s dst = none ∨ resolve s src = none)) ∨
    (∃ d b, resolve s dst = some d ∧ resolve s src = some b ∧
      ((breakpointHit s (placeAddresses d ++ placeAddresses b) (placeAddresses d) = true ∧
          exec2 op dst src s = .stall (setDebugMode .pause s)) ∨
        (breakpointHit s (placeAddresses d ++ placeAddresses b) (placeAddresses d) = false ∧
          exec2 op dst src s =
            .success
              { writePlace s d (op (readPlace s d) (readPlace s b)).1 with
                flags := (op (readPlace s d) (readPlace s b)).2 }
              (repositions d)))) := by
  unfold exec2
  cases hd : resolve s dst with
  | none => simp
  | some d =>
    cases hb : resolve s src with
    | none => simp
    | some b => right; refine ⟨d, b, rfl, rfl, ?_⟩; dsimp only; split <;> simp_all

/-- The one-operand template (R117). -/
theorem exec1_cases (op : Byte → Byte × Byte) (dst : Operand) (s : State) :
    (exec1 op dst s = .fail s ∧ resolve s dst = none) ∨
    (∃ d, resolve s dst = some d ∧
      ((breakpointHit s (placeAddresses d) (placeAddresses d) = true ∧
          exec1 op dst s = .stall (setDebugMode .pause s)) ∨
        (breakpointHit s (placeAddresses d) (placeAddresses d) = false ∧
          exec1 op dst s =
            .success { writePlace s d (op (readPlace s d)).1 with flags := (op (readPlace s d)).2 } (repositions d)))) := by
  unfold exec1
  cases hd : resolve s dst with
  | none => simp
  | some d => right; refine ⟨d, rfl, ?_⟩; dsimp only; split <;> simp_all

/-- Compare (R148). -/
theorem execFlagsOnly_cases (op : Byte → Byte → Byte × Byte) (dst src : Operand) (s : State) :
    (execFlagsOnly op dst src s = .fail s ∧ (resolve s dst = none ∨ resolve s src = none)) ∨
    (∃ d b, resolve s dst = some d ∧ resolve s src = some b ∧
      ((breakpointHit s (placeAddresses d ++ placeAddresses b) [] = true ∧
          execFlagsOnly op dst src s = .stall (setDebugMode .pause s)) ∨
        (breakpointHit s (placeAddresses d ++ placeAddresses b) [] = false ∧
          execFlagsOnly op dst src s = .success { s with flags := (op (readPlace s d) (readPlace s b)).2 } false))) := by
  unfold execFlagsOnly
  cases hd : resolve s dst with
  | none => simp
  | some d =>
    cases hb : resolve s src with
    | none => simp
    | some b => right; refine ⟨d, b, rfl, rfl, ?_⟩; dsimp only; split <;> simp_all

/-- Copy (R140). -/
theorem execCopy_cases (dst src : Operand) (s : State) :
    (execCopy dst src s = .fail s ∧ (resolve s dst = none ∨ resolve s src = none)) ∨
    (∃ d b, resolve s dst = some d ∧ resolve s src = some b ∧
      ((breakpointHit s (placeAddresses b) (placeAddresses d) = true ∧
          execCopy dst src s = .stall (setDebugMode .pause s)) ∨
        (breakpointHit s (placeAddresses b) (placeAddresses d) = false ∧
          execCopy dst src s = .success (writePlace s d (readPlace s b)) (repositions d)))) := by
  unfold execCopy
  cases hd : resolve s dst with
  | none => simp
  | some d =>
    cases hb : resolve s src with
    | none => simp
    | some b => right; refine ⟨d, b, rfl, rfl, ?_⟩; dsimp only; split <;> simp_all

/-! ### Control and port templates -/

/-- A jump is taken or falls through (R175). -/
theorem jump_cases (cond : Byte → Bool) (rel : Byte) (s : State) :
    (cond s.flags = true ∧ jump cond rel s = .success { s with pc := s.pc + rel } true) ∨
    (cond s.flags = false ∧ jump cond rel s = .success s false) := by
  unfold jump
  split <;> simp_all

/-- The wait is paid whole, or what the budget cannot pay stays as residual wait (R207). -/
theorem applyWait_cases (w : Nat) (s : State) :
    (w + s.message.wait ≤ s.cycles ∧ (applyWait w s).cycles = s.cycles - (w + s.message.wait) ∧
      (applyWait w s).message = { s.message with wait := 0 }) ∨
    (s.cycles < w + s.message.wait ∧ (applyWait w s).cycles = 0 ∧
      (applyWait w s).message = { s.message with wait := w + s.message.wait - s.cycles }) := by
  unfold applyWait
  dsimp only
  split
  · exact .inl ⟨‹_›, rfl, rfl⟩
  · exact .inr ⟨by omega, rfl, rfl⟩

/-- The wait is never paid beyond the budget (R207). -/
theorem applyWait_cycles_le (w : Nat) (s : State) : (applyWait w s).cycles ≤ s.cycles := by
  rcases applyWait_cases w s with ⟨-, h, -⟩ | ⟨-, h, -⟩ <;> omega

theorem finishPort_cycles_le (w : Nat) (s : State) : (finishPort w s).cycles ≤ s.cycles := by
  exact applyWait_cycles_le w _

/-- Of a finished port operation the message is idle, its port, window and timestamp as they were (R205, R207). -/
theorem finishPort_message (w : Nat) (s : State) :
    (finishPort w s).message.status = .idle ∧ (finishPort w s).message.port = s.message.port ∧
      (finishPort w s).message.offset = s.message.offset ∧ (finishPort w s).message.size = s.message.size ∧
      (finishPort w s).message.timestamp = s.message.timestamp := by
  unfold finishPort
  rcases applyWait_cases w { s with message := { s.message with status := .idle } } with ⟨-, -, h⟩ | ⟨-, -, h⟩ <;>
    simp [h]

/-- The posted message: what is pending, and its stamp (R204). -/
theorem post_message (k : MessageStatus) (p o z : Byte) (s : State) :
    (post k p o z s).message =
      { status := k, port := p, offset := o, size := z, wait := s.message.wait,
        timestamp := if samePending s.message k p o z then s.message.timestamp else s.cycles } := by
  unfold post
  split
  · rename_i h
    simp only [samePending, Bool.and_eq_true, decide_eq_true_eq] at h
    obtain ⟨⟨⟨rfl, rfl⟩, rfl⟩, rfl⟩ := h
    simp
  · simp

/-- The ways a `send` with its operands read can end (R201, R206). -/
theorem sendWindow_cases (port size off : Byte) (s : State) :
    (breakpointHit s (windowAddresses off size.toNat) [] = true ∧
      sendWindow port size off s = .stall (setDebugMode .pause s)) ∨
    (∃ r, r = { direction := .send, port := port, payload := s.mem.bytes off size.toNat,
                timestamp := (post .sendPending port off size s).message.timestamp } ∧
      breakpointHit s (windowAddresses off size.toNat) [] = false ∧
      ((∃ w p, answerOf r (post .sendPending port off size s) = .success w p ∧
          sendWindow port size off s = .success (finishPort w (asked r (post .sendPending port off size s))) false) ∨
        ((∀ w p, answerOf r (post .sendPending port off size s) ≠ .success w p) ∧
          sendWindow port size off s = .stall (asked r (post .sendPending port off size s))))) := by
  unfold sendWindow
  split
  · left; simp_all
  · right
    refine ⟨_, rfl, by simp_all, ?_⟩
    dsimp only
    split <;> simp_all

/-- The ways a `recv` with its operand read can end (R202, R206). -/
theorem recvWindow_cases (port off : Byte) (s : State) :
    ∃ r, r = { direction := .recv, port := port, payload := [],
               timestamp := (post .receivePending port off 0 s).message.timestamp } ∧
      ((∃ w p, answerOf r (post .receivePending port off 0 s) = .success w p ∧
          ((breakpointHit s [] (windowAddresses off (payloadOf p).length) = true ∧
              recvWindow port off s =
                .stall (setDebugMode .pause (asked r (post .receivePending port off 0 s)))) ∨
            (breakpointHit s [] (windowAddresses off (payloadOf p).length) = false ∧
              recvWindow port off s =
                .success
                  (finishPort w (acceptPayload off (payloadOf p) (asked r (post .receivePending port off 0 s))))
                  false))) ∨
        ((∀ w p, answerOf r (post .receivePending port off 0 s) ≠ .success w p) ∧
          recvWindow port off s = .stall (asked r (post .receivePending port off 0 s)))) := by
  refine ⟨_, rfl, ?_⟩
  unfold recvWindow
  dsimp only
  split
  · rename_i w p h
    left
    refine ⟨w, p, h, ?_⟩
    split <;> simp_all
  all_goals (right; simp_all)

/-- The environment's answer does not depend on the posted message. -/
@[simp] theorem answerOf_post (r : PortRequest) (k : MessageStatus) (p o z : Byte) (s : State) :
    answerOf r (post k p o z s) = answerOf r s := by
  simp [answerOf]

end Sys2Proof.Machine
end

