-- ==== Sys2Proof/Laws/Exec.lean ====
section
/-! SUPPORT. Which template every instruction is: one lemma per constructor, so that a claim over all instructions is a
case split over eight shapes. -/

namespace Sys2Proof

theorem RegOp.valid_iff (d : RegOp) : d.valid = true ↔ d.operand ≠ .naInvalid := by
  cases d <;> simp [RegOp.valid, RegOp.operand]

theorem RMOp.valid_iff (d : RMOp) : d.valid = true ↔ d.operand ≠ .naInvalid := by
  cases d with
  | reg r => exact RegOp.valid_iff r
  | mem m => simp [RMOp.valid, RMOp.operand]

theorem RegOp.operand_ne_na (d : RegOp) : d.operand ≠ .na := by cases d <;> simp [RegOp.operand]

theorem RMOp.operand_ne_na (d : RMOp) : d.operand ≠ .na := by
  cases d with
  | reg r => exact RegOp.operand_ne_na r
  | mem m => simp [RMOp.operand]

end Sys2Proof

namespace Sys2Proof.Machine

open Sys2Proof

/-- The flags byte has bits 7 to 4 clear (R115). -/
theorem flags4_lt (r : Byte) (c o : Bool) : (flags4 r c o).toNat < 16 := by
  unfold flags4
  generalize bit7 r = sign
  by_cases hz : r = 0 <;> simp only [hz] <;> cases c <;> cases o <;> cases sign <;> decide

/-- A writer is predictable unless it writes `pc` (R121). -/
theorem writerFlow_none (d : Operand) : decide ((writerFlow d).effect = .none) = decide (d ≠ .reg .pc) := by
  unfold writerFlow
  split <;> simp_all [straightFlow]

/-- Every two-operand operation yields a flags byte below 16. -/
theorem op2_flags_lt (op : Byte → Byte → Byte × Byte)
    (h : op = addOp ∨ op = subOp ∨ op = mulOp ∨ op = andOp ∨ op = orOp ∨ op = xorOp ∨ op = shlOp ∨ op = shrOp ∨
      op = udivOp ∨ op = umodOp ∨ op = sdivOp ∨ op = smodOp) (a b : Byte) : (op a b).2.toNat < 16 := by
  rcases h with rfl | rfl | rfl | rfl | rfl | rfl | rfl | rfl | rfl | rfl | rfl | rfl
  all_goals first
    | exact flags4_lt _ _ _
    | (simp only [udivOp, umodOp, sdivOp, smodOp]
       split
       · decide
       · exact flags4_lt _ _ _)

/-- The four flags depend on bits 3 to 0 only. -/
theorem flags_of_low_bits (f g : Byte) (h : f &&& 0x0F = g &&& 0x0F) :
    flagZ f = flagZ g ∧ flagC f = flagC g ∧ flagS f = flagS g ∧ flagO f = flagO g := by
  have h0 := congrArg (·.getLsbD 0) h
  have h1 := congrArg (·.getLsbD 1) h
  have h2 := congrArg (·.getLsbD 2) h
  have h3 := congrArg (·.getLsbD 3) h
  simp at h0 h1 h2 h3
  simp [h0, h1, h2, h3, flagZ, flagC, flagS, flagO]

theorem mnemonic_ne {i : Instr} {m : String} (h : i.mnemonic = m) (hm : m ≠ "mov") : i.mnemonic ≠ "mov" := by
  rw [h]
  exact hm

/-- What the result of an instruction is, by its template, with what the claims over all instructions need of it. -/
inductive Shape (i : Instr) (s : State) : Result → Prop
  /-- `Exec2` (R117) -/
  | mutate2 (op : Byte → Byte → Byte × Byte) (dst src : Operand) (writes : writesOperand0 i = true)
      (flags : writesFlags i = true) (op0 : operand0 i = dst) (op1 : operand1 i = src) (mnem : i.mnemonic ≠ "mov")
      (port : isPort i = false) (jump : isJump i = false) (halt : i ≠ .hlt)
      (wf : i.wellFormed = true ↔ dst ≠ .naInvalid ∧ src ≠ .naInvalid) (dstNa : dst ≠ .na) (srcNa : src ≠ .na)
      (low : ∀ a b, (op a b).2.toNat < 16) (predictable : predictableFlow i = decide (dst ≠ .reg .pc))
      (flow : getControlFlow s.pc i = writerFlow dst) : Shape i s (exec2 op dst src s)
  /-- `not` and `neg` -/
  | mutate1 (op : Byte → Byte × Byte) (dst : Operand) (writes : writesOperand0 i = true) (flags : writesFlags i = true)
      (op0 : operand0 i = dst) (op1 : operand1 i = .na) (mnem : i.mnemonic ≠ "mov") (port : isPort i = false)
      (jump : isJump i = false) (halt : i ≠ .hlt) (wf : i.wellFormed = true ↔ dst ≠ .naInvalid) (dstNa : dst ≠ .na)
      (low : ∀ a, (op a).2.toNat < 16) (predictable : predictableFlow i = decide (dst ≠ .reg .pc))
      (flow : getControlFlow s.pc i = writerFlow dst) : Shape i s (exec1 op dst s)
  /-- `cmp` -/
  | compare (op : Byte → Byte → Byte × Byte) (dst src : Operand) (writes : writesOperand0 i = false)
      (flags : writesFlags i = true) (op0 : operand0 i = dst) (op1 : operand1 i = src) (mnem : i.mnemonic ≠ "mov")
      (port : isPort i = false) (jump : isJump i = false) (halt : i ≠ .hlt)
      (wf : i.wellFormed = true ↔ dst ≠ .naInvalid ∧ src ≠ .naInvalid) (dstNa : dst ≠ .na) (srcNa : src ≠ .na)
      (low : ∀ a b, (op a b).2.toNat < 16) (predictable : predictableFlow i = true)
      (flow : getControlFlow s.pc i = straightFlow) : Shape i s (execFlagsOnly op dst src s)
  /-- `mov` -/
  | copy (dst src : Operand) (writes : writesOperand0 i = true) (flags : writesFlags i = false) (op0 : operand0 i = dst)
      (op1 : operand1 i = src) (mnem : i.mnemonic = "mov") (port : isPort i = false) (jump : isJump i = false)
      (halt : i ≠ .hlt) (wf : i.wellFormed = true ↔ dst ≠ .naInvalid ∧ src ≠ .naInvalid) (dstNa : dst ≠ .na)
      (srcNa : src ≠ .na) (predictable : predictableFlow i = decide (dst ≠ .reg .pc))
      (flow : getControlFlow s.pc i = writerFlow dst) : Shape i s (execCopy dst src s)
  /-- a jump -/
  | jump (cond : Byte → Bool) (rel : Byte) (ev : FlowEvaluation) (writes : writesOperand0 i = false)
      (flags : writesFlags i = false) (op0 : operand0 i = .rel rel) (op1 : operand1 i = .na) (mnem : i.mnemonic ≠ "mov")
      (port : isPort i = false) (isJ : isJump i = true) (halt : i ≠ .hlt) (wf : i.wellFormed = true)
      (predictable : predictableFlow i = false) (flow : getControlFlow s.pc i = jumpFlow ev s.pc rel)
      (always : ev = .unconditional → cond = condJmp)
      (low : ∀ f g : Byte, f &&& 0x0F = g &&& 0x0F → cond f = cond g)
      (every : ∀ u, exec i u = .next (conclude i u (Machine.jump cond rel u))) : Shape i s (Machine.jump cond rel s)
  /-- `hlt` -/
  | halt (h : i = .hlt) : Shape i s (.success { s with cycles := 0 } false)
  /-- `send` -/
  | send (port size : Operand) (win : MemOp) (form : FormSend i port size win) (isP : isPort i = true)
      (writes : writesOperand0 i = false) (flags : writesFlags i = false) (mnem : i.mnemonic ≠ "mov")
      (wf : i.wellFormed = true ↔ port ≠ .naInvalid ∧ size ≠ .naInvalid) (portNa : port ≠ .na) (sizeNa : size ≠ .na)
      (flow : getControlFlow s.pc i = ioFlow) : Shape i s (sendOperands port size win s)
  /-- `recv` -/
  | recv (port : Operand) (win : MemOp) (form : FormRecv i port win) (isP : isPort i = true)
      (writes : writesOperand0 i = false) (flags : writesFlags i = false) (mnem : i.mnemonic ≠ "mov")
      (wf : i.wellFormed = true ↔ port ≠ .naInvalid) (portNa : port ≠ .na) (flow : getControlFlow s.pc i = ioFlow) :
      Shape i s (recvOperands port win s)

/-- The instruction answers the end of a result of its shape. -/
def HasShape (i : Instr) (s : State) : Prop := ∃ R, exec i s = .next (conclude i s R) ∧ Shape i s R

theorem shape_addRI (s : State) (d : RegOp) (v : Byte) : HasShape (.addRI d v) s :=
  ⟨_, rfl, .mutate2 addOp d.operand (.imm v) rfl rfl rfl rfl (mnemonic_ne (m := "add") rfl (by decide)) rfl rfl
    (by simp) (by simp [Instr.wellFormed, RegOp.valid_iff]) d.operand_ne_na (by simp) (op2_flags_lt _ (by simp))
    (writerFlow_none _) rfl⟩

theorem shape_addRM (s : State) (d b : RMOp) : HasShape (.addRM d b) s :=
  ⟨_, rfl, .mutate2 addOp d.operand b.operand rfl rfl rfl rfl (mnemonic_ne (m := "add") rfl (by decide)) rfl rfl
    (by simp) (by simp [Instr.wellFormed, RMOp.valid_iff]) d.operand_ne_na b.operand_ne_na
    (op2_flags_lt _ (by simp)) (writerFlow_none _) rfl⟩

theorem shape_movRI (s : State) (d : RegOp) (v : Byte) : HasShape (.movRI d v) s :=
  ⟨_, rfl, .copy d.operand (.imm v) rfl rfl rfl rfl rfl rfl rfl (by simp)
    (by simp [Instr.wellFormed, RegOp.valid_iff]) d.operand_ne_na (by simp) (writerFlow_none _) rfl⟩

theorem shape_movRM (s : State) (d b : RMOp) : HasShape (.movRM d b) s :=
  ⟨_, rfl, .copy d.operand b.operand rfl rfl rfl rfl rfl rfl rfl (by simp)
    (by simp [Instr.wellFormed, RMOp.valid_iff]) d.operand_ne_na b.operand_ne_na (writerFlow_none _) rfl⟩

theorem shape_subRI (s : State) (d : RegOp) (v : Byte) : HasShape (.subRI d v) s :=
  ⟨_, rfl, .mutate2 subOp d.operand (.imm v) rfl rfl rfl rfl (mnemonic_ne (m := "sub") rfl (by decide)) rfl rfl
    (by simp) (by simp [Instr.wellFormed, RegOp.valid_iff]) d.operand_ne_na (by simp) (op2_flags_lt _ (by simp))
    (writerFlow_none _) rfl⟩

theorem shape_subRM (s : State) (d b : RMOp) : HasShape (.subRM d b) s :=
  ⟨_, rfl, .mutate2 subOp d.operand b.operand rfl rfl rfl rfl (mnemonic_ne (m := "sub") rfl (by decide)) rfl rfl
    (by simp) (by simp [Instr.wellFormed, RMOp.valid_iff]) d.operand_ne_na b.operand_ne_na
    (op2_flags_lt _ (by simp)) (writerFlow_none _) rfl⟩

theorem shape_mulRI (s : State) (d : RegOp) (v : Byte) : HasShape (.mulRI d v) s :=
  ⟨_, rfl, .mutate2 mulOp d.operand (.imm v) rfl rfl rfl rfl (mnemonic_ne (m := "mul") rfl (by decide)) rfl rfl
    (by simp) (by simp [Instr.wellFormed, RegOp.valid_iff]) d.operand_ne_na (by simp) (op2_flags_lt _ (by simp))
    (writerFlow_none _) rfl⟩

theorem shape_mulRM (s : State) (d b : RMOp) : HasShape (.mulRM d b) s :=
  ⟨_, rfl, .mutate2 mulOp d.operand b.operand rfl rfl rfl rfl (mnemonic_ne (m := "mul") rfl (by decide)) rfl rfl
    (by simp) (by simp [Instr.wellFormed, RMOp.valid_iff]) d.operand_ne_na b.operand_ne_na
    (op2_flags_lt _ (by simp)) (writerFlow_none _) rfl⟩

theorem shape_sdivRI (s : State) (d : RegOp) (v : Byte) : HasShape (.sdivRI d v) s :=
  ⟨_, rfl, .mutate2 sdivOp d.operand (.imm v) rfl rfl rfl rfl (mnemonic_ne (m := "sdiv") rfl (by decide)) rfl rfl
    (by simp) (by simp [Instr.wellFormed, RegOp.valid_iff]) d.operand_ne_na (by simp) (op2_flags_lt _ (by simp))
    (writerFlow_none _) rfl⟩

theorem shape_sdivRM (s : State) (d b : RMOp) : HasShape (.sdivRM d b) s :=
  ⟨_, rfl, .mutate2 sdivOp d.operand b.operand rfl rfl rfl rfl (mnemonic_ne (m := "sdiv") rfl (by decide)) rfl rfl
    (by simp) (by simp [Instr.wellFormed, RMOp.valid_iff]) d.operand_ne_na b.operand_ne_na
    (op2_flags_lt _ (by simp)) (writerFlow_none _) rfl⟩

theorem shape_udivRI (s : State) (d : RegOp) (v : Byte) : HasShape (.udivRI d v) s :=
  ⟨_, rfl, .mutate2 udivOp d.operand (.imm v) rfl rfl rfl rfl (mnemonic_ne (m := "udiv") rfl (by decide)) rfl rfl
    (by simp) (by simp [Instr.wellFormed, RegOp.valid_iff]) d.operand_ne_na (by simp) (op2_flags_lt _ (by simp))
    (writerFlow_none _) rfl⟩

theorem shape_udivRM (s : State) (d b : RMOp) : HasShape (.udivRM d b) s :=
  ⟨_, rfl, .mutate2 udivOp d.operand b.operand rfl rfl rfl rfl (mnemonic_ne (m := "udiv") rfl (by decide)) rfl rfl
    (by simp) (by simp [Instr.wellFormed, RMOp.valid_iff]) d.operand_ne_na b.operand_ne_na
    (op2_flags_lt _ (by simp)) (writerFlow_none _) rfl⟩

theorem shape_smodRI (s : State) (d : RegOp) (v : Byte) : HasShape (.smodRI d v) s :=
  ⟨_, rfl, .mutate2 smodOp d.operand (.imm v) rfl rfl rfl rfl (mnemonic_ne (m := "smod") rfl (by decide)) rfl rfl
    (by simp) (by simp [Instr.wellFormed, RegOp.valid_iff]) d.operand_ne_na (by simp) (op2_flags_lt _ (by simp))
    (writerFlow_none _) rfl⟩

theorem shape_smodRM (s : State) (d b : RMOp) : HasShape (.smodRM d b) s :=
  ⟨_, rfl, .mutate2 smodOp d.operand b.operand rfl rfl rfl rfl (mnemonic_ne (m := "smod") rfl (by decide)) rfl rfl
    (by simp) (by simp [Instr.wellFormed, RMOp.valid_iff]) d.operand_ne_na b.operand_ne_na
    (op2_flags_lt _ (by simp)) (writerFlow_none _) rfl⟩

theorem shape_umodRI (s : State) (d : RegOp) (v : Byte) : HasShape (.umodRI d v) s :=
  ⟨_, rfl, .mutate2 umodOp d.operand (.imm v) rfl rfl rfl rfl (mnemonic_ne (m := "umod") rfl (by decide)) rfl rfl
    (by simp) (by simp [Instr.wellFormed, RegOp.valid_iff]) d.operand_ne_na (by simp) (op2_flags_lt _ (by simp))
    (writerFlow_none _) rfl⟩

theorem shape_umodRM (s : State) (d b : RMOp) : HasShape (.umodRM d b) s :=
  ⟨_, rfl, .mutate2 umodOp d.operand b.operand rfl rfl rfl rfl (mnemonic_ne (m := "umod") rfl (by decide)) rfl rfl
    (by simp) (by simp [Instr.wellFormed, RMOp.valid_iff]) d.operand_ne_na b.operand_ne_na
    (op2_flags_lt _ (by simp)) (writerFlow_none _) rfl⟩

theorem shape_cmpRI (s : State) (d : RegOp) (v : Byte) : HasShape (.cmpRI d v) s :=
  ⟨_, rfl, .compare subOp d.operand (.imm v) rfl rfl rfl rfl (mnemonic_ne (m := "cmp") rfl (by decide)) rfl rfl
    (by simp) (by simp [Instr.wellFormed, RegOp.valid_iff]) d.operand_ne_na (by simp) (op2_flags_lt _ (by simp)) rfl
    rfl⟩

theorem shape_cmpRM (s : State) (d b : RMOp) : HasShape (.cmpRM d b) s :=
  ⟨_, rfl, .compare subOp d.operand b.operand rfl rfl rfl rfl (mnemonic_ne (m := "cmp") rfl (by decide)) rfl rfl
    (by simp) (by simp [Instr.wellFormed, RMOp.valid_iff]) d.operand_ne_na b.operand_ne_na
    (op2_flags_lt _ (by simp)) rfl rfl⟩

theorem shape_shlRI (s : State) (d : RegOp) (v : Byte) : HasShape (.shlRI d v) s :=
  ⟨_, rfl, .mutate2 shlOp d.operand (.imm v) rfl rfl rfl rfl (mnemonic_ne (m := "shl") rfl (by decide)) rfl rfl
    (by simp) (by simp [Instr.wellFormed, RegOp.valid_iff]) d.operand_ne_na (by simp) (op2_flags_lt _ (by simp))
    (writerFlow_none _) rfl⟩

theorem shape_shlRM (s : State) (d b : RMOp) : HasShape (.shlRM d b) s :=
  ⟨_, rfl, .mutate2 shlOp d.operand b.operand rfl rfl rfl rfl (mnemonic_ne (m := "shl") rfl (by decide)) rfl rfl
    (by simp) (by simp [Instr.wellFormed, RMOp.valid_iff]) d.operand_ne_na b.operand_ne_na
    (op2_flags_lt _ (by simp)) (writerFlow_none _) rfl⟩

theorem shape_shrRI (s : State) (d : RegOp) (v : Byte) : HasShape (.shrRI d v) s :=
  ⟨_, rfl, .mutate2 shrOp d.operand (.imm v) rfl rfl rfl rfl (mnemonic_ne (m := "shr") rfl (by decide)) rfl rfl
    (by simp) (by simp [Instr.wellFormed, RegOp.valid_iff]) d.operand_ne_na (by simp) (op2_flags_lt _ (by simp))
    (writerFlow_none _) rfl⟩

theorem shape_shrRM (s : State) (d b : RMOp) : HasShape (.shrRM d b) s :=
  ⟨_, rfl, .mutate2 shrOp d.operand b.operand rfl rfl rfl rfl (mnemonic_ne (m := "shr") rfl (by decide)) rfl rfl
    (by simp) (by simp [Instr.wellFormed, RMOp.valid_iff]) d.operand_ne_na b.operand_ne_na
    (op2_flags_lt _ (by simp)) (writerFlow_none _) rfl⟩

theorem shape_xorRI (s : State) (d : RegOp) (v : Byte) : HasShape (.xorRI d v) s :=
  ⟨_, rfl, .mutate2 xorOp d.operand (.imm v) rfl rfl rfl rfl (mnemonic_ne (m := "xor") rfl (by decide)) rfl rfl
    (by simp) (by simp [Instr.wellFormed, RegOp.valid_iff]) d.operand_ne_na (by simp) (op2_flags_lt _ (by simp))
    (writerFlow_none _) rfl⟩

theorem shape_xorRM (s : State) (d b : RMOp) : HasShape (.xorRM d b) s :=
  ⟨_, rfl, .mutate2 xorOp d.operand b.operand rfl rfl rfl rfl (mnemonic_ne (m := "xor") rfl (by decide)) rfl rfl
    (by simp) (by simp [Instr.wellFormed, RMOp.valid_iff]) d.operand_ne_na b.operand_ne_na
    (op2_flags_lt _ (by simp)) (writerFlow_none _) rfl⟩

theorem shape_orRI (s : State) (d : RegOp) (v : Byte) : HasShape (.orRI d v) s :=
  ⟨_, rfl, .mutate2 orOp d.operand (.imm v) rfl rfl rfl rfl (mnemonic_ne (m := "or") rfl (by decide)) rfl rfl
    (by simp) (by simp [Instr.wellFormed, RegOp.valid_iff]) d.operand_ne_na (by simp) (op2_flags_lt _ (by simp))
    (writerFlow_none _) rfl⟩

theorem shape_orRM (s : State) (d b : RMOp) : HasShape (.orRM d b) s :=
  ⟨_, rfl, .mutate2 orOp d.operand b.operand rfl rfl rfl rfl (mnemonic_ne (m := "or") rfl (by decide)) rfl rfl
    (by simp) (by simp [Instr.wellFormed, RMOp.valid_iff]) d.operand_ne_na b.operand_ne_na
    (op2_flags_lt _ (by simp)) (writerFlow_none _) rfl⟩

theorem shape_andRI (s : State) (d : RegOp) (v : Byte) : HasShape (.andRI d v) s :=
  ⟨_, rfl, .mutate2 andOp d.operand (.imm v) rfl rfl rfl rfl (mnemonic_ne (m := "and") rfl (by decide)) rfl rfl
    (by simp) (by simp [Instr.wellFormed, RegOp.valid_iff]) d.operand_ne_na (by simp) (op2_flags_lt _ (by simp))
    (writerFlow_none _) rfl⟩

theorem shape_andRM (s : State) (d b : RMOp) : HasShape (.andRM d b) s :=
  ⟨_, rfl, .mutate2 andOp d.operand b.operand rfl rfl rfl rfl (mnemonic_ne (m := "and") rfl (by decide)) rfl rfl
    (by simp) (by simp [Instr.wellFormed, RMOp.valid_iff]) d.operand_ne_na b.operand_ne_na
    (op2_flags_lt _ (by simp)) (writerFlow_none _) rfl⟩

theorem shape_not (s : State) (d : RMOp) : HasShape (.not d) s :=
  ⟨_, rfl, .mutate1 notOp d.operand rfl rfl rfl rfl (mnemonic_ne (m := "not") rfl (by decide)) rfl rfl (by simp)
    (by simp [Instr.wellFormed, RMOp.valid_iff]) d.operand_ne_na (fun _ => flags4_lt _ _ _) (writerFlow_none _) rfl⟩

theorem shape_neg (s : State) (d : RMOp) : HasShape (.neg d) s :=
  ⟨_, rfl, .mutate1 negOp d.operand rfl rfl rfl rfl (mnemonic_ne (m := "neg") rfl (by decide)) rfl rfl (by simp)
    (by simp [Instr.wellFormed, RMOp.valid_iff]) d.operand_ne_na (fun _ => flags4_lt _ _ _) (writerFlow_none _) rfl⟩

theorem shape_hlt (s : State) : HasShape (.hlt) s :=
  ⟨_, rfl, .halt rfl⟩

theorem shape_jmp (s : State) (r : Byte) : HasShape (.jmp r) s :=
  ⟨_, rfl, .jump condJmp r .unconditional rfl rfl rfl rfl (mnemonic_ne (m := "jmp") rfl (by decide)) rfl rfl
    (by simp) rfl rfl rfl (by simp) (fun _ _ _ => rfl) (fun _ => rfl)⟩

theorem shape_jz (s : State) (r : Byte) : HasShape (.jz r) s :=
  ⟨_, rfl, .jump condJz r .conditional rfl rfl rfl rfl (mnemonic_ne (m := "jz") rfl (by decide)) rfl rfl (by simp)
    rfl rfl rfl (by simp) (by intro f g h; have := flags_of_low_bits f g h; simp [condJz, this])
    (fun _ => rfl)⟩

theorem shape_jnz (s : State) (r : Byte) : HasShape (.jnz r) s :=
  ⟨_, rfl, .jump condJnz r .conditional rfl rfl rfl rfl (mnemonic_ne (m := "jnz") rfl (by decide)) rfl rfl (by simp)
    rfl rfl rfl (by simp) (by intro f g h; have := flags_of_low_bits f g h; simp [condJnz, this])
    (fun _ => rfl)⟩

theorem shape_js (s : State) (r : Byte) : HasShape (.js r) s :=
  ⟨_, rfl, .jump condJs r .conditional rfl rfl rfl rfl (mnemonic_ne (m := "js") rfl (by decide)) rfl rfl (by simp)
    rfl rfl rfl (by simp) (by intro f g h; have := flags_of_low_bits f g h; simp [condJs, this])
    (fun _ => rfl)⟩

theorem shape_jns (s : State) (r : Byte) : HasShape (.jns r) s :=
  ⟨_, rfl, .jump condJns r .conditional rfl rfl rfl rfl (mnemonic_ne (m := "jns") rfl (by decide)) rfl rfl (by simp)
    rfl rfl rfl (by simp) (by intro f g h; have := flags_of_low_bits f g h; simp [condJns, this])
    (fun _ => rfl)⟩

theorem shape_jo (s : State) (r : Byte) : HasShape (.jo r) s :=
  ⟨_, rfl, .jump condJo r .conditional rfl rfl rfl rfl (mnemonic_ne (m := "jo") rfl (by decide)) rfl rfl (by simp)
    rfl rfl rfl (by simp) (by intro f g h; have := flags_of_low_bits f g h; simp [condJo, this])
    (fun _ => rfl)⟩

theorem shape_jno (s : State) (r : Byte) : HasShape (.jno r) s :=
  ⟨_, rfl, .jump condJno r .conditional rfl rfl rfl rfl (mnemonic_ne (m := "jno") rfl (by decide)) rfl rfl (by simp)
    rfl rfl rfl (by simp) (by intro f g h; have := flags_of_low_bits f g h; simp [condJno, this])
    (fun _ => rfl)⟩

theorem shape_jsl (s : State) (r : Byte) : HasShape (.jsl r) s :=
  ⟨_, rfl, .jump condJsl r .conditional rfl rfl rfl rfl (mnemonic_ne (m := "jsl") rfl (by decide)) rfl rfl (by simp)
    rfl rfl rfl (by simp) (by intro f g h; have := flags_of_low_bits f g h; simp [condJsl, signedLess, this])
    (fun _ => rfl)⟩

theorem shape_jsge (s : State) (r : Byte) : HasShape (.jsge r) s :=
  ⟨_, rfl, .jump condJsge r .conditional rfl rfl rfl rfl (mnemonic_ne (m := "jsge") rfl (by decide)) rfl rfl
    (by simp) rfl rfl rfl (by simp)
    (by intro f g h; have := flags_of_low_bits f g h; simp [condJsge, signedLess, this]) (fun _ => rfl)⟩

theorem shape_jsle (s : State) (r : Byte) : HasShape (.jsle r) s :=
  ⟨_, rfl, .jump condJsle r .conditional rfl rfl rfl rfl (mnemonic_ne (m := "jsle") rfl (by decide)) rfl rfl
    (by simp) rfl rfl rfl (by simp)
    (by intro f g h; have := flags_of_low_bits f g h; simp [condJsle, signedLess, this]) (fun _ => rfl)⟩

theorem shape_jsg (s : State) (r : Byte) : HasShape (.jsg r) s :=
  ⟨_, rfl, .jump condJsg r .conditional rfl rfl rfl rfl (mnemonic_ne (m := "jsg") rfl (by decide)) rfl rfl (by simp)
    rfl rfl rfl (by simp) (by intro f g h; have := flags_of_low_bits f g h; simp [condJsg, signedLess, this])
    (fun _ => rfl)⟩

theorem shape_jul (s : State) (r : Byte) : HasShape (.jul r) s :=
  ⟨_, rfl, .jump condJul r .conditional rfl rfl rfl rfl (mnemonic_ne (m := "jul") rfl (by decide)) rfl rfl (by simp)
    rfl rfl rfl (by simp) (by intro f g h; have := flags_of_low_bits f g h; simp [condJul, this])
    (fun _ => rfl)⟩

theorem shape_juge (s : State) (r : Byte) : HasShape (.juge r) s :=
  ⟨_, rfl, .jump condJuge r .conditional rfl rfl rfl rfl (mnemonic_ne (m := "juge") rfl (by decide)) rfl rfl
    (by simp) rfl rfl rfl (by simp)
    (by intro f g h; have := flags_of_low_bits f g h; simp [condJuge, this]) (fun _ => rfl)⟩

theorem shape_jule (s : State) (r : Byte) : HasShape (.jule r) s :=
  ⟨_, rfl, .jump condJule r .conditional rfl rfl rfl rfl (mnemonic_ne (m := "jule") rfl (by decide)) rfl rfl
    (by simp) rfl rfl rfl (by simp)
    (by intro f g h; have := flags_of_low_bits f g h; simp [condJule, this]) (fun _ => rfl)⟩

theorem shape_jug (s : State) (r : Byte) : HasShape (.jug r) s :=
  ⟨_, rfl, .jump condJug r .conditional rfl rfl rfl rfl (mnemonic_ne (m := "jug") rfl (by decide)) rfl rfl (by simp)
    rfl rfl rfl (by simp) (by intro f g h; have := flags_of_low_bits f g h; simp [condJug, this])
    (fun _ => rfl)⟩

theorem shape_sendRRM (s : State) (p z : RegOp) (w : MemOp) : HasShape (.sendRRM p z w) s :=
  ⟨_, rfl, .send p.operand z.operand w (by simp [FormSend]) rfl rfl rfl (mnemonic_ne (m := "send") rfl (by decide))
    (by simp [Instr.wellFormed, RegOp.valid_iff]) p.operand_ne_na z.operand_ne_na rfl⟩

theorem shape_sendRIM (s : State) (p : RegOp) (z : Byte) (w : MemOp) : HasShape (.sendRIM p z w) s :=
  ⟨_, rfl, .send p.operand (.imm z) w (by simp [FormSend]) rfl rfl rfl (mnemonic_ne (m := "send") rfl (by decide))
    (by simp [Instr.wellFormed, RegOp.valid_iff]) p.operand_ne_na (by simp) rfl⟩

theorem shape_sendIRM (s : State) (p : Byte) (z : RegOp) (w : MemOp) : HasShape (.sendIRM p z w) s :=
  ⟨_, rfl, .send (.imm p) z.operand w (by simp [FormSend]) rfl rfl rfl (mnemonic_ne (m := "send") rfl (by decide))
    (by simp [Instr.wellFormed, RegOp.valid_iff]) (by simp) z.operand_ne_na rfl⟩

theorem shape_sendIIM (s : State) (p z : Byte) (w : MemOp) : HasShape (.sendIIM p z w) s :=
  ⟨_, rfl, .send (.imm p) (.imm z) w (by simp [FormSend]) rfl rfl rfl (mnemonic_ne (m := "send") rfl (by decide))
    (by simp [Instr.wellFormed]) (by simp) (by simp) rfl⟩

theorem shape_recvRM (s : State) (p : RegOp) (w : MemOp) : HasShape (.recvRM p w) s :=
  ⟨_, rfl, .recv p.operand w (by simp [FormRecv]) rfl rfl rfl (mnemonic_ne (m := "recv") rfl (by decide))
    (by simp [Instr.wellFormed, RegOp.valid_iff]) p.operand_ne_na rfl⟩

theorem shape_recvIM (s : State) (p : Byte) (w : MemOp) : HasShape (.recvIM p w) s :=
  ⟨_, rfl, .recv (.imm p) w (by simp [FormRecv]) rfl rfl rfl (mnemonic_ne (m := "recv") rfl (by decide))
    (by simp [Instr.wellFormed]) (by simp) rfl⟩

/-- Every instruction has one of the shapes. -/
theorem exec_shape (i : Instr) (s : State) : HasShape i s := by
  cases i with
  | addRI d v => exact shape_addRI s d v
  | addRM d b => exact shape_addRM s d b
  | movRI d v => exact shape_movRI s d v
  | movRM d b => exact shape_movRM s d b
  | subRI d v => exact shape_subRI s d v
  | subRM d b => exact shape_subRM s d b
  | mulRI d v => exact shape_mulRI s d v
  | mulRM d b => exact shape_mulRM s d b
  | sdivRI d v => exact shape_sdivRI s d v
  | sdivRM d b => exact shape_sdivRM s d b
  | udivRI d v => exact shape_udivRI s d v
  | udivRM d b => exact shape_udivRM s d b
  | smodRI d v => exact shape_smodRI s d v
  | smodRM d b => exact shape_smodRM s d b
  | umodRI d v => exact shape_umodRI s d v
  | umodRM d b => exact shape_umodRM s d b
  | cmpRI d v => exact shape_cmpRI s d v
  | cmpRM d b => exact shape_cmpRM s d b
  | shlRI d v => exact shape_shlRI s d v
  | shlRM d b => exact shape_shlRM s d b
  | shrRI d v => exact shape_shrRI s d v
  | shrRM d b => exact shape_shrRM s d b
  | xorRI d v => exact shape_xorRI s d v
  | xorRM d b => exact shape_xorRM s d b
  | orRI d v => exact shape_orRI s d v
  | orRM d b => exact shape_orRM s d b
  | andRI d v => exact shape_andRI s d v
  | andRM d b => exact shape_andRM s d b
  | not d => exact shape_not s d
  | neg d => exact shape_neg s d
  | hlt => exact shape_hlt s
  | jmp r => exact shape_jmp s r
  | jz r => exact shape_jz s r
  | jnz r => exact shape_jnz s r
  | js r => exact shape_js s r
  | jns r => exact shape_jns s r
  | jo r => exact shape_jo s r
  | jno r => exact shape_jno s r
  | jsl r => exact shape_jsl s r
  | jsge r => exact shape_jsge s r
  | jsle r => exact shape_jsle s r
  | jsg r => exact shape_jsg s r
  | jul r => exact shape_jul s r
  | juge r => exact shape_juge s r
  | jule r => exact shape_jule s r
  | jug r => exact shape_jug s r
  | sendRRM p z w => exact shape_sendRRM s p z w
  | sendRIM p z w => exact shape_sendRIM s p z w
  | sendIRM p z w => exact shape_sendIRM s p z w
  | sendIIM p z w => exact shape_sendIIM s p z w
  | recvRM p w => exact shape_recvRM s p w
  | recvIM p w => exact shape_recvIM s p w

end Sys2Proof.Machine
end

