-- ==== Sys2Proof/Laws/Graph.lean ====
section
/-! SUPPORT. What the operations of the graph builder answer. -/

namespace Sys2Proof.Machine

open Sys2Proof

/-- The block found for an address holds it. -/
theorem Graph.find_eq_some {g : Graph} {a : Byte} {b : Block} (h : g.find a = some b) :
    b ∈ g.blocks ∧ b.covers a = true :=
  ⟨List.mem_of_find?_eq_some h, by simpa using List.find?_some h⟩

/-- No block is found for an address exactly where none holds it. -/
theorem Graph.find_eq_none (g : Graph) (a : Byte) : g.find a = none ↔ ∀ b ∈ g.blocks, b.covers a = false := by
  simp [Graph.find]

/-- The block of a number is one of the graph and has it. -/
theorem Graph.block_eq_some {g : Graph} {id : Nat} {b : Block} (h : g.block id = some b) : b ∈ g.blocks ∧ b.id = id :=
  ⟨List.mem_of_find?_eq_some h, by simpa using List.find?_some h⟩

/-- No jump target lies inside a decoded instruction (R232 (d)). -/
theorem Graph.midTarget_eq_none (g : Graph) :
    g.midTarget = none ↔
      ∀ b ∈ g.blocks, ∀ n ∈ b.nodes, ∀ a, n.target = some a →
        ∀ c ∈ g.blocks, c.covers a = true → c.hasNode a = true := by
  simp only [Graph.midTarget, List.find?_eq_none, List.mem_filterMap, List.mem_flatMap]
  constructor
  · intro h b hb n hn a ha c hc hcov
    have := h a ⟨n, ⟨b, hb, hn⟩, ha⟩
    simp only [List.any_eq_true, not_exists, not_and] at this
    simpa [hcov] using this c hc
  · rintro h a ⟨n, ⟨b, hb, hn⟩, ha⟩
    simp only [List.any_eq_true, not_exists, not_and]
    intro c hc hcov
    simp only [Bool.and_eq_true, Bool.not_eq_true'] at hcov
    simp [h b hb n hn a ha c hc hcov.1] at hcov

/-- A finished graph passes exactly where no target lies inside a decoded instruction. -/
theorem refuseMidTarget_eq_ok (x : Built) (g : Graph) (r : Option Nat) :
    refuseMidTarget x = .ok (g, r) ↔ x = .ok (g, r) ∧ g.midTarget = none := by
  rcases x with e | ⟨h, i⟩
  · simp [refuseMidTarget]
  · simp only [refuseMidTarget]
    split
    · next a ha =>
      simp only [reduceCtorEq, false_iff, not_and, Except.ok.injEq, Prod.mk.injEq, and_imp]
      rintro rfl - h
      simp [h] at ha
    · next ha =>
      simp only [Except.ok.injEq, Prod.mk.injEq, iff_self_and, and_imp]
      rintro rfl -
      exact ha

/-- The check gives the answer that the walk did not run out of only where the walk did. -/
theorem refuseMidTarget_eq_noAnswer (x : Built) : refuseMidTarget x = .error .noAnswer ↔ x = .error .noAnswer := by
  rcases x with e | ⟨h, i⟩
  · simp [refuseMidTarget]
  · simp only [refuseMidTarget]
    split <;> simp

/-- A call of `BuildBlock` from outside: an address already mapped gives its block and the graph as it is. -/
theorem buildBlock_of_find {g : Graph} {p : Byte} {b : Block} (m : Memory) (h : g.find p = some b) :
    buildBlock g m p = refuseMidTarget (.ok (g, some b.id)) := by
  simp [buildBlock, buildBlockWith, h]

/-- A call of `BuildBlock` from outside: an address not mapped is walked in a new block. -/
theorem buildBlock_of_none {g : Graph} {p : Byte} (m : Memory) (h : g.find p = none) :
    buildBlock g m p = refuseMidTarget (walk m walkFuel (g.addBlock p) g.nextId p) := by
  simp [buildBlock, buildBlockWith, h]

end Sys2Proof.Machine
end

