-- ==== Sys2Proof/Laws/Host.lean ====
section
/-! SUPPORT. What the operations on connections do, and what a call on a processor answers. -/

namespace Sys2Proof.Machine

open Sys2Proof

/-- Every connection after one port's was replaced. -/
theorem getPort_setPort (p q : Byte) (c : Option Nat) (s : State) :
    getPort (setPort p c s) q = if q = p then c else getPort s q := by
  simp only [getPort, setPort, emitIf_ports]
  rw [look_put]
  simp only [BitVec.toNat_inj]

/-- Every connection after one port was disconnected. -/
theorem getPort_disconnect (p q : Byte) (s : State) :
    getPort (disconnect p s) q = if q = p then none else getPort s q := by
  unfold disconnect
  split
  · next h => split <;> simp_all
  · exact getPort_setPort p q none s

/-- A disconnected port is left as it is. -/
theorem disconnect_of_none (p : Byte) (s : State) (h : getPort s p = none) : disconnect p s = s := by
  simp [disconnect, h]

/-- The debugger's two writes of the mode take effect whatever the mode was. -/
@[simp] theorem pause_mode (s : State) : (pause s).debugger.mode = .pause := setDebugMode_mode .pause s

@[simp] theorem resume_mode (s : State) : (resume s).debugger.mode = .continue := setDebugMode_mode .continue s

@[simp] theorem call_alive (c : HostCall) (s : State) : call c (.alive s) = .ok (callAlive c s) := rfl

@[simp] theorem call_destroyed (c : HostCall) (o : List Output) :
    call c (.destroyed o) = .error .destroyedProcessor := rfl

@[simp] theorem callGetPort_alive (p : Byte) (s : State) : callGetPort p (.alive s) = .ok (getPort s p) := rfl

@[simp] theorem callGetPort_destroyed (p : Byte) (o : List Output) :
    callGetPort p (.destroyed o) = .error .destroyedProcessor := rfl

end Sys2Proof.Machine
end

