-- ==== Sys2Proof/Laws/PerInstr.lean ====
section
/-! SUPPORT. Facts stated for every instruction, one lemma per constructor of `Instr`. -/

namespace Sys2Proof.Laws

open Sys2Proof

/-- The bits the encoder writes are as many as the length counts, and they fill 1 to 5 bytes (spec/30_encoding.md R72). -/
def Length.Statement (i : Instr) : Prop :=
  (encodeBits i).length = i.bitLength ∧ (encode i).length = i.length ∧ 1 ≤ i.length ∧ i.length ≤ 5

/-- The statement from a bound on the operand fields. -/
theorem Length.of_bound (i : Instr) (h : (i.args.map Arg.width).sum ≤ 34) : Length.Statement i := by
  refine ⟨encodeBits_length i, by simp [encode], ?_, ?_⟩ <;> unfold Instr.length Instr.bitLength <;> omega

/-- The statement of every instruction. -/
theorem Length.all (i : Instr) : Length.Statement i := by
  refine Length.of_bound i ?_
  cases i with
  | addRM d b | movRM d b | subRM d b | mulRM d b | sdivRM d b | udivRM d b | smodRM d b | umodRM d b | cmpRM d b
  | shlRM d b | shrRM d b | xorRM d b | orRM d b | andRM d b =>
    have := RMOp.width_le d
    have := RMOp.width_le b
    simp only [Instr.args, List.map_cons, List.map_nil, List.sum_cons, List.sum_nil]
    omega
  | not d | neg d =>
    have := RMOp.width_le d
    simp only [Instr.args, List.map_cons, List.map_nil, List.sum_cons, List.sum_nil]
    omega
  | sendRRM _ _ w | sendRIM _ _ w | sendIRM _ _ w | sendIIM _ _ w | recvRM _ w | recvIM _ w =>
    have := MemOp.width_le w
    simp only [Instr.args, List.map_cons, List.map_nil, List.sum_cons, List.sum_nil, Arg.width]
    omega
  | _ => simp [Instr.args, Arg.width]

theorem Length.addRI (d : RegOp) (v : Byte) : Length.Statement (.addRI d v) := Length.all _

theorem Length.addRM (d b : RMOp) : Length.Statement (.addRM d b) := Length.all _

theorem Length.movRI (d : RegOp) (v : Byte) : Length.Statement (.movRI d v) := Length.all _

theorem Length.movRM (d b : RMOp) : Length.Statement (.movRM d b) := Length.all _

theorem Length.subRI (d : RegOp) (v : Byte) : Length.Statement (.subRI d v) := Length.all _

theorem Length.subRM (d b : RMOp) : Length.Statement (.subRM d b) := Length.all _

theorem Length.mulRI (d : RegOp) (v : Byte) : Length.Statement (.mulRI d v) := Length.all _

theorem Length.mulRM (d b : RMOp) : Length.Statement (.mulRM d b) := Length.all _

theorem Length.sdivRI (d : RegOp) (v : Byte) : Length.Statement (.sdivRI d v) := Length.all _

theorem Length.sdivRM (d b : RMOp) : Length.Statement (.sdivRM d b) := Length.all _

theorem Length.udivRI (d : RegOp) (v : Byte) : Length.Statement (.udivRI d v) := Length.all _

theorem Length.udivRM (d b : RMOp) : Length.Statement (.udivRM d b) := Length.all _

theorem Length.smodRI (d : RegOp) (v : Byte) : Length.Statement (.smodRI d v) := Length.all _

theorem Length.smodRM (d b : RMOp) : Length.Statement (.smodRM d b) := Length.all _

theorem Length.umodRI (d : RegOp) (v : Byte) : Length.Statement (.umodRI d v) := Length.all _

theorem Length.umodRM (d b : RMOp) : Length.Statement (.umodRM d b) := Length.all _

theorem Length.cmpRI (d : RegOp) (v : Byte) : Length.Statement (.cmpRI d v) := Length.all _

theorem Length.cmpRM (d b : RMOp) : Length.Statement (.cmpRM d b) := Length.all _

theorem Length.shlRI (d : RegOp) (v : Byte) : Length.Statement (.shlRI d v) := Length.all _

theorem Length.shlRM (d b : RMOp) : Length.Statement (.shlRM d b) := Length.all _

theorem Length.shrRI (d : RegOp) (v : Byte) : Length.Statement (.shrRI d v) := Length.all _

theorem Length.shrRM (d b : RMOp) : Length.Statement (.shrRM d b) := Length.all _

theorem Length.xorRI (d : RegOp) (v : Byte) : Length.Statement (.xorRI d v) := Length.all _

theorem Length.xorRM (d b : RMOp) : Length.Statement (.xorRM d b) := Length.all _

theorem Length.orRI (d : RegOp) (v : Byte) : Length.Statement (.orRI d v) := Length.all _

theorem Length.orRM (d b : RMOp) : Length.Statement (.orRM d b) := Length.all _

theorem Length.andRI (d : RegOp) (v : Byte) : Length.Statement (.andRI d v) := Length.all _

theorem Length.andRM (d b : RMOp) : Length.Statement (.andRM d b) := Length.all _

theorem Length.not (d : RMOp) : Length.Statement (.not d) := Length.all _

theorem Length.neg (d : RMOp) : Length.Statement (.neg d) := Length.all _

theorem Length.hlt : Length.Statement .hlt := Length.all _

theorem Length.jmp (rel : Byte) : Length.Statement (.jmp rel) := Length.all _

theorem Length.jz (rel : Byte) : Length.Statement (.jz rel) := Length.all _

theorem Length.jnz (rel : Byte) : Length.Statement (.jnz rel) := Length.all _

theorem Length.js (rel : Byte) : Length.Statement (.js rel) := Length.all _

theorem Length.jns (rel : Byte) : Length.Statement (.jns rel) := Length.all _

theorem Length.jo (rel : Byte) : Length.Statement (.jo rel) := Length.all _

theorem Length.jno (rel : Byte) : Length.Statement (.jno rel) := Length.all _

theorem Length.jsl (rel : Byte) : Length.Statement (.jsl rel) := Length.all _

theorem Length.jsge (rel : Byte) : Length.Statement (.jsge rel) := Length.all _

theorem Length.jsle (rel : Byte) : Length.Statement (.jsle rel) := Length.all _

theorem Length.jsg (rel : Byte) : Length.Statement (.jsg rel) := Length.all _

theorem Length.jul (rel : Byte) : Length.Statement (.jul rel) := Length.all _

theorem Length.juge (rel : Byte) : Length.Statement (.juge rel) := Length.all _

theorem Length.jule (rel : Byte) : Length.Statement (.jule rel) := Length.all _

theorem Length.jug (rel : Byte) : Length.Statement (.jug rel) := Length.all _

theorem Length.sendRRM (p z : RegOp) (m : MemOp) : Length.Statement (.sendRRM p z m) := Length.all _

theorem Length.sendRIM (p : RegOp) (z : Byte) (m : MemOp) : Length.Statement (.sendRIM p z m) := Length.all _

theorem Length.sendIRM (p : Byte) (z : RegOp) (m : MemOp) : Length.Statement (.sendIRM p z m) := Length.all _

theorem Length.sendIIM (p z : Byte) (m : MemOp) : Length.Statement (.sendIIM p z m) := Length.all _

theorem Length.recvRM (p : RegOp) (m : MemOp) : Length.Statement (.recvRM p m) := Length.all _

theorem Length.recvIM (p : Byte) (m : MemOp) : Length.Statement (.recvIM p m) := Length.all _

end Sys2Proof.Laws
end

