-- ==== Sys2Proof/Laws/Step.lean ====
section
/-! SUPPORT. What one iteration of the loop of `Run` can do, and how `runLoop` unfolds. -/

namespace Sys2Proof.Machine

open Sys2Proof

/-- An instruction costs at least one cycle, by default as many as it has bytes (R102). -/
theorem cost_eq_length (i : Instr) : cost i = i.length := by simp [cost, memReadSpeed, extraCost]

theorem one_le_cost (i : Instr) : 1 ≤ cost i := by
  rw [cost_eq_length, Instr.length, Instr.bitLength]
  omega

/-- Every instruction answers a next state. -/
theorem exec_next (i : Instr) (s : State) : ∃ R, exec i s = .next (conclude i s R) := by
  obtain ⟨R, h, -⟩ := exec_shape i s
  exact ⟨R, h⟩

/-- A step stops paused, on an unassigned opcode or for want of budget, or executes the fetched instruction, its cost
charged (R101, R102, R264). -/
theorem step_cases (s t : State) (h : step s = .next t) :
    (s.debugger.mode = .pause ∧ t = stopPaused s) ∨
    (s.debugger.mode ≠ .pause ∧ fetch s = none ∧ t = stopInvalid s) ∨
    (∃ i, s.debugger.mode ≠ .pause ∧ fetch s = some i ∧ s.cycles < cost i ∧ t = stopBudget s) ∨
    (∃ i R, s.debugger.mode ≠ .pause ∧ fetch s = some i ∧ cost i ≤ s.cycles ∧ Shape i (charge (cost i) s) R ∧
      t = conclude i (charge (cost i) s) R) := by
  unfold step at h
  split at h
  · injection h with h
    exact .inl ⟨‹_›, h.symm⟩
  · split at h
    · injection h with h
      exact .inr (.inl ⟨‹_›, ‹_›, h.symm⟩)
    · split at h
      · injection h with h
        exact .inr (.inr (.inl ⟨_, ‹_›, ‹_›, ‹_›, h.symm⟩))
      · rename_i i hi hc
        obtain ⟨R, hex, hs⟩ := exec_shape i (charge (cost i) s)
        rw [hex] at h
        injection h with h
        exact .inr (.inr (.inr ⟨i, R, ‹_›, hi, by omega, hs, h.symm⟩))

/-- Every step answers a next state. -/
theorem step_next (s : State) : ∃ t, step s = .next t := by
  unfold step
  split
  · exact ⟨_, rfl⟩
  · split
    · exact ⟨_, rfl⟩
    · split
      · exact ⟨_, rfl⟩
      · obtain ⟨R, h⟩ := exec_next _ _
        exact ⟨_, h⟩

@[simp] theorem runLoop_zero (s : State) : runLoop 0 s = s := rfl

/-- One iteration of the loop (R105). -/
theorem runLoop_succ (n : Nat) (s t : State) (h : step s = .next t) :
    runLoop (n + 1) s = if t.outcome = some .success then runLoop n t else t := by
  simp [runLoop, h]

end Sys2Proof.Machine
end

