-- ==== Sys2Proof/Tests/Slice0.lean ====
section
/-! SUPPORT. Tests. Expected values are the vectors of spec/95_test_vectors.md (sections named at the theorems) or worked by
hand from the rules; below them, for every statement with hypotheses, a witness that meets them. -/

namespace Sys2Proof.Tests

open Sys2Proof
open Sys2Proof.Machine

/-! ### Well-formedness: an ill-formed term for each check (R77) -/

theorem test_wellFormed_refuses_destination_register : Instr.wellFormed (.addRI .naInvalid 1) = false := by decide

theorem test_wellFormed_refuses_destination : Instr.wellFormed (.movRM (.reg .naInvalid) (.mem (.ind .r0))) = false := by
  decide

theorem test_wellFormed_refuses_source : Instr.wellFormed (.movRM (.mem (.ind .r0)) (.reg .naInvalid)) = false := by decide

theorem test_wellFormed_refuses_single_operand :
    Instr.wellFormed (.not (.reg .naInvalid)) = false ∧ Instr.wellFormed (.neg (.reg .naInvalid)) = false := by decide

theorem test_wellFormed_refuses_port :
    Instr.wellFormed (.sendRRM .naInvalid (.reg .pc) (.abs 0)) = false ∧
      Instr.wellFormed (.sendRIM .naInvalid 1 (.abs 0)) = false ∧ Instr.wellFormed (.recvRM .naInvalid (.abs 0)) = false := by
  decide

theorem test_wellFormed_refuses_size :
    Instr.wellFormed (.sendRRM (.reg .pc) .naInvalid (.abs 0)) = false ∧
      Instr.wellFormed (.sendIRM 1 .naInvalid (.abs 0)) = false := by decide

theorem test_wellFormed_accepts :
    Instr.wellFormed .hlt = true ∧ Instr.wellFormed (.jmp 0) = true ∧ Instr.wellFormed (.recvIM 0 (.rr .r0 .r3)) = true := by
  decide

/-! ### Decoding: a word of every row, from its bit string (section 2.1 and the family files) -/

/-- A general register as an operand of kind `R`. -/
def gp (g : GReg) : RegOp := .reg (.gp g)

/-- A general register as an operand of kind `RM`. -/
def rm (g : GReg) : RMOp := .reg (gp g)

/-- `000010 100 00000001` and `000011 0100 0101`. -/
theorem test_decode_add :
    decode [0x0A, 0x00, 0x80] = some (.addRI (gp .r0) 1) ∧ decode [0x0D, 0x14] = some (.addRM (rm .r0) (rm .r1)) := by decide

/-- `000110 100 00000001` and `000111 0100 0101`. -/
theorem test_decode_sub :
    decode [0x1A, 0x00, 0x80] = some (.subRI (gp .r0) 1) ∧ decode [0x1D, 0x14] = some (.subRM (rm .r0) (rm .r1)) := by decide

/-- `001000 100 00010000` and `001001 0100 0101`. -/
theorem test_decode_mul :
    decode [0x22, 0x08, 0x00] = some (.mulRI (gp .r0) 16) ∧ decode [0x25, 0x14] = some (.mulRM (rm .r0) (rm .r1)) := by decide

/-- `001010 100 11111110` and `001011 0100 0101`. -/
theorem test_decode_sdiv :
    decode [0x2A, 0x7F, 0x00] = some (.sdivRI (gp .r0) 254) ∧ decode [0x2D, 0x14] = some (.sdivRM (rm .r0) (rm .r1)) := by decide

/-- `001100 100 00000011` and `001101 0100 0101`. -/
theorem test_decode_udiv :
    decode [0x32, 0x01, 0x80] = some (.udivRI (gp .r0) 3) ∧ decode [0x35, 0x14] = some (.udivRM (rm .r0) (rm .r1)) := by decide

/-- `001110 100 00000011` and `001111 0100 0101`. -/
theorem test_decode_smod :
    decode [0x3A, 0x01, 0x80] = some (.smodRI (gp .r0) 3) ∧ decode [0x3D, 0x14] = some (.smodRM (rm .r0) (rm .r1)) := by decide

/-- `010000 100 00000011` and `010001 0100 0101`. -/
theorem test_decode_umod :
    decode [0x42, 0x01, 0x80] = some (.umodRI (gp .r0) 3) ∧ decode [0x45, 0x14] = some (.umodRM (rm .r0) (rm .r1)) := by decide

/-- `010010 100 00001010` and `010011 0100 0101`. -/
theorem test_decode_cmp :
    decode [0x4A, 0x05, 0x00] = some (.cmpRI (gp .r0) 10) ∧ decode [0x4D, 0x14] = some (.cmpRM (rm .r0) (rm .r1)) := by decide

/-- `010100 100 00000001` and `010101 0100 0101`. -/
theorem test_decode_shl :
    decode [0x52, 0x00, 0x80] = some (.shlRI (gp .r0) 1) ∧ decode [0x55, 0x14] = some (.shlRM (rm .r0) (rm .r1)) := by decide

/-- `010110 100 00000001` and `010111 0100 0101`. -/
theorem test_decode_shr :
    decode [0x5A, 0x00, 0x80] = some (.shrRI (gp .r0) 1) ∧ decode [0x5D, 0x14] = some (.shrRM (rm .r0) (rm .r1)) := by decide

/-- `011010 100 10000000` and `011011 0100 0101`. -/
theorem test_decode_or :
    decode [0x6A, 0x40, 0x00] = some (.orRI (gp .r0) 128) ∧ decode [0x6D, 0x14] = some (.orRM (rm .r0) (rm .r1)) := by decide

/-- `011100 100 00001111` and `011101 0100 0101`. -/
theorem test_decode_and :
    decode [0x72, 0x07, 0x80] = some (.andRI (gp .r0) 15) ∧ decode [0x75, 0x14] = some (.andRM (rm .r0) (rm .r1)) := by decide

/-- `011000 111 11111111` and `011001 0100 0100`. -/
theorem test_decode_xor :
    decode [0x63, 0xFF, 0x80] = some (.xorRI (gp .r3) 255) ∧ decode [0x65, 0x10] = some (.xorRM (rm .r0) (rm .r0)) := by
  decide

/-- `000100 000 11111111` and `000101 1 10 00010000 01 1 11 10 11`. -/
theorem test_decode_mov :
    decode [0x10, 0x7F, 0x80] = some (.movRI (.reg .flags) 255) ∧
      decode [0x17, 0x08, 0x3E, 0xC0] = some (.movRM (.mem (.off 0x10 .r1)) (.mem (.rr .r2 .r3))) := by decide

/-- The other modes: `mov pc, [0x20+r0]`, `mov [r2], r0`, `mov [0x20], flags`, `mov r0, pc`. -/
theorem test_decode_mov_modes :
    decode [0x14, 0x71, 0x00] = some (.movRM (.reg (.reg .pc)) (.mem (.off 0x20 .r0))) ∧
      decode [0x16, 0xC8] = some (.movRM (.mem (.ind .r2)) (rm .r0)) ∧
      decode [0x16, 0x10, 0x00] = some (.movRM (.mem (.abs 0x20)) (.reg (.reg .flags))) ∧
      decode [0x15, 0x04] = some (.movRM (rm .r0) (.reg (.reg .pc))) := by decide

/-- `011110 1 11 00 01` and `011111 1 00 00110000`. -/
theorem test_decode_not_neg :
    decode [0x7B, 0x88] = some (.not (.mem (.rr .r0 .r1))) ∧ decode [0x7E, 0x18, 0x00] = some (.neg (.mem (.abs 0x30))) := by
  decide

/-- `100000`, with padding `11` too. -/
theorem test_decode_hlt : decode [0x80] = some .hlt ∧ decode [0x83] = some .hlt := by decide

/-- Opcodes 33 to 47 with `rel = 0xFA` (section 2.8). -/
theorem test_decode_jumps :
    [[0x87, 0xE8], [0x8B, 0xE8], [0x8F, 0xE8], [0x93, 0xE8], [0x97, 0xE8], [0x9B, 0xE8], [0x9F, 0xE8], [0xA3, 0xE8],
          [0xA7, 0xE8], [0xAB, 0xE8], [0xAF, 0xE8], [0xB3, 0xE8], [0xB7, 0xE8], [0xBB, 0xE8], [0xBF, 0xE8]].map decode =
      [Instr.jmp 0xFA, .jz 0xFA, .jnz 0xFA, .js 0xFA, .jns 0xFA, .jo 0xFA, .jno 0xFA, .jsl 0xFA, .jsge 0xFA, .jsle 0xFA,
          .jsg 0xFA, .jul 0xFA, .juge 0xFA, .jule 0xFA, .jug 0xFA].map some := by decide

/-- The four rows of `send`. -/
theorem test_decode_send :
    decode [0xC2, 0x50, 0x00] = some (.sendRRM (gp .r0) (gp .r1) (.abs 0)) ∧
      decode [0xC6, 0x02, 0x30] = some (.sendRIM (gp .r0) 4 (.ind .r2)) ∧
      decode [0xC8, 0x06, 0xC8, 0x00] = some (.sendIRM 1 (gp .r1) (.off 0x40 .r0)) ∧
      decode [0xCF, 0xFF, 0xFE, 0xFF, 0xC0] = some (.sendIIM 255 255 (.off 255 .r3)) := by decide

/-- The two rows of `recv`. -/
theorem test_decode_recv :
    decode [0xD2, 0x80, 0x00] = some (.recvRM (gp .r1) (.abs 0)) ∧
      decode [0xD4, 0x0B, 0x10] = some (.recvIM 2 (.rr .r0 .r1)) := by decide

/-- Reserved register codes decode to the invalid operand, unassigned opcodes to nothing. -/
theorem test_decode_reserved :
    decode [0x14, 0x90] = some (.movRM (.reg .naInvalid) (rm .r0)) ∧ decode [0x09, 0x80, 0x80] = some (.addRI .naInvalid 1) ∧
      decode [0x03] = none ∧ decode [0x04] = none ∧ decode [0x07] = none ∧ decode [0xD8] = none ∧ decode [0xFF] = none := by
  decide

/-- The encoder writes the bytes of section 2.1. -/
theorem test_encode :
    encode (.movRM (.mem (.off 0x10 .r1)) (.mem (.rr .r2 .r3))) = [0x17, 0x08, 0x3E, 0xC0] ∧
      encode (.sendIIM 255 255 (.off 255 .r3)) = [0xCF, 0xFF, 0xFE, 0xFF, 0xC0] ∧ encode .hlt = [0x80] := by decide

/-! ### One step -/

/-- A state with these registers and flags, 20 cycles, and these bytes stored at `pc`. -/
def start (bytes : List Byte) (r0 r1 r2 r3 flags pc : Byte) : State :=
  { State.reset with
    regs := { r0 := r0, r1 := r1, r2 := r2, r3 := r3 }
    flags := flags
    pc := pc
    mem := Memory.store [] pc bytes
    cycles := 20 }

/-- The state with one more byte of memory. -/
def poke (a v : Byte) (s : State) : State := { s with mem := s.mem.write a v }

/-- What a step answers, seen through a function. -/
def see {α : Type} (f : State → α) (s : State) : Option α :=
  match step s with
  | .next t => some (f t)
  | .fault _ => none
  | .refused _ => none

/-- `r0`, `flags` and `pc`. -/
def r0FlagsPc (t : State) : Byte × Byte × Byte := (t.regs.r0, t.flags, t.pc)

/-- Sections 2.4 to 2.7. -/
theorem test_add :
    see r0FlagsPc (start [0x0A, 0x00, 0x80] 0x7F 0 0 0 0x0F 0) = some (0x80, 0x0C, 3) ∧
      see r0FlagsPc (start [0x0D, 0x14] 0xFF 0x01 0 0 0 0x40) = some (0x00, 0x03, 0x42) := by decide

/-- Sections 2.4 to 2.7. -/
theorem test_sub :
    see r0FlagsPc (start [0x1A, 0x00, 0x80] 0x80 0 0 0 0x0F 0) = some (0x7F, 0x08, 3) ∧
      see r0FlagsPc (start [0x1D, 0x14] 0x7F 0xFF 0 0 0 0x40) = some (0x80, 0x0E, 0x42) := by decide

/-- Sections 2.4 to 2.7. -/
theorem test_mul :
    see r0FlagsPc (start [0x22, 0x08, 0x00] 0x03 0 0 0 0x0F 0) = some (0x30, 0x00, 3) ∧
      see r0FlagsPc (start [0x25, 0x14] 0xFF 0xFF 0 0 0 0x40) = some (0x01, 0x0A, 0x42) := by decide

/-- Sections 2.4 to 2.7. -/
theorem test_sdiv :
    see r0FlagsPc (start [0x2A, 0x7F, 0x00] 0x0A 0 0 0 0x0F 0) = some (0xFB, 0x04, 3) ∧
      see r0FlagsPc (start [0x2D, 0x14] 0x80 0xFF 0 0 0 0x40) = some (0x80, 0x0C, 0x42) := by decide

/-- Sections 2.4 to 2.7. -/
theorem test_udiv :
    see r0FlagsPc (start [0x32, 0x01, 0x80] 0x64 0 0 0 0x0F 0) = some (0x21, 0x00, 3) ∧
      see r0FlagsPc (start [0x35, 0x14] 0x05 0x00 0 0 0 0x40) = some (0x00, 0x0B, 0x42) := by decide

/-- Sections 2.4 to 2.7. -/
theorem test_smod :
    see r0FlagsPc (start [0x3A, 0x01, 0x80] 0xF9 0 0 0 0x0F 0) = some (0xFF, 0x04, 3) ∧
      see r0FlagsPc (start [0x3D, 0x14] 0x9C 0xF9 0 0 0 0x40) = some (0xFE, 0x04, 0x42) := by decide

/-- Sections 2.4 to 2.7. -/
theorem test_umod :
    see r0FlagsPc (start [0x42, 0x01, 0x80] 0x64 0 0 0 0x0F 0) = some (0x01, 0x00, 3) ∧
      see r0FlagsPc (start [0x45, 0x14] 0xFF 0x10 0 0 0 0x40) = some (0x0F, 0x00, 0x42) := by decide

/-- Sections 2.4 to 2.7. -/
theorem test_cmp :
    see r0FlagsPc (start [0x4A, 0x05, 0x00] 0x03 0 0 0 0x0F 0) = some (0x03, 0x06, 3) ∧
      see r0FlagsPc (start [0x4D, 0x14] 0x80 0x7F 0 0 0 0x40) = some (0x80, 0x08, 0x42) := by decide

/-- Sections 2.4 to 2.7. -/
theorem test_shl :
    see r0FlagsPc (start [0x52, 0x00, 0x80] 0xC0 0 0 0 0x0F 0) = some (0x80, 0x06, 3) ∧
      see r0FlagsPc (start [0x55, 0x14] 0xFF 0x08 0 0 0 0x40) = some (0x00, 0x0B, 0x42) := by decide

/-- Sections 2.4 to 2.7. -/
theorem test_shr :
    see r0FlagsPc (start [0x5A, 0x00, 0x80] 0x81 0 0 0 0x0F 0) = some (0x40, 0x0A, 3) ∧
      see r0FlagsPc (start [0x5D, 0x14] 0x80 0x08 0 0 0 0x40) = some (0x00, 0x0B, 0x42) := by decide

/-- Sections 2.4 to 2.7. -/
theorem test_or :
    see r0FlagsPc (start [0x6A, 0x40, 0x00] 0x00 0 0 0 0x0F 0) = some (0x80, 0x04, 3) ∧
      see r0FlagsPc (start [0x6D, 0x14] 0xF0 0x0F 0 0 0 0x40) = some (0xFF, 0x04, 0x42) := by decide

/-- Sections 2.4 to 2.7. -/
theorem test_and :
    see r0FlagsPc (start [0x72, 0x07, 0x80] 0x55 0 0 0 0x0F 0) = some (0x05, 0x00, 3) ∧
      see r0FlagsPc (start [0x75, 0x14] 0xFF 0x80 0 0 0 0x40) = some (0x80, 0x04, 0x42) := by decide

/-- Section 2.5. -/
theorem test_xor :
    see (fun t => (t.regs.r3, t.flags)) (start [0x63, 0xFF, 0x80] 0 0 0 0x0F 0x0F 0) = some (0xF0, 4) ∧
      see r0FlagsPc (start [0x65, 0x14] 0xAA 0x55 0 0 0 0) = some (0xFF, 4, 2) := by decide

/-- Sections 2.3 and 2.5: `not flags` leaves the computed flags byte. -/
theorem test_not :
    see r0FlagsPc (start [0x79, 0x00] 0x55 0 0 0 0x0F 0) = some (0xAA, 4, 2) ∧
      see r0FlagsPc (start [0x78, 0x00] 0 0 0 0 0x0F 0) = some (0, 4, 2) := by decide

/-- Section 2.4. -/
theorem test_neg : see r0FlagsPc (start [0x7D, 0x00] 0x80 0 0 0 0 0) = some (0x80, 0x0E, 2) := by decide

/-- Section 2.3: memory to memory, both addresses wrapping. -/
theorem test_mov_memory_to_memory :
    see (fun t => (t.mem.read 0x08, t.flags, t.pc))
        (poke 0x20 0x5A (start [0x17, 0x08, 0x3E, 0xC0] 0 0xF8 0x90 0x90 0x0F 0x40)) = some (0x5A, 0x0F, 0x44) := by decide

/-- Section 2.3: `mov pc, pc` does not advance. -/
theorem test_mov_pc_pc : see (fun t => (t.pc, t.cycles)) (start [0x14, 0x44] 0 0 0 0 0 0x30) = some (0x30, 18) := by decide

/-- Section 2.3: `add [4], r0` at 0x10 and `add pc, r0` at 0x10. -/
theorem test_add_destinations :
    see (fun t => (t.mem.read 4, t.flags, t.pc)) (start [0x0E, 0x02, 0x20] 3 0 0 0 0 0x10) = some (3, 0, 0x13) ∧
      see r0FlagsPc (start [0x0C, 0x50] 6 0 0 0 0 0x10) = some (6, 0, 0x16) := by decide

/-- The values of `flags` bits 3 to 0 on which a jump from 0x20 by 4 is taken. -/
def takenOn (jump : Byte → Instr) : List Nat :=
  (List.range 16).filter fun f =>
    match exec (jump 4) (start [] 0 0 0 0 (BitVec.ofNat 8 (0xF0 + f)) 0x20) with
    | .next t => t.pc == 0x24
    | .fault _ => false
    | .refused _ => false

/-- The columns of section 2.8. -/
theorem test_jumps_on_single_flags :
    takenOn .jmp = List.range 16 ∧ takenOn .jz = [1, 3, 5, 7, 9, 11, 13, 15] ∧ takenOn .jnz = [0, 2, 4, 6, 8, 10, 12, 14] ∧
      takenOn .js = [4, 5, 6, 7, 12, 13, 14, 15] ∧ takenOn .jns = [0, 1, 2, 3, 8, 9, 10, 11] ∧
      takenOn .jo = [8, 9, 10, 11, 12, 13, 14, 15] ∧ takenOn .jno = [0, 1, 2, 3, 4, 5, 6, 7] := by decide

theorem test_jumps_on_signed_order :
    takenOn .jsl = [4, 5, 6, 7, 8, 9, 10, 11] ∧ takenOn .jsge = [0, 1, 2, 3, 12, 13, 14, 15] ∧
      takenOn .jsle = [1, 3, 4, 5, 6, 7, 8, 9, 10, 11, 13, 15] ∧ takenOn .jsg = [0, 2, 12, 14] := by decide

theorem test_jumps_on_unsigned_order :
    takenOn .jul = [2, 3, 6, 7, 10, 11, 14, 15] ∧ takenOn .juge = [0, 1, 4, 5, 8, 9, 12, 13] ∧
      takenOn .jule = [1, 2, 3, 5, 6, 7, 9, 10, 11, 13, 14, 15] ∧ takenOn .jug = [0, 4, 8, 12] := by decide

/-- Section 2.8: a jump at 0xFF, taken and not taken. -/
theorem test_jump_wraps :
    see (fun t => (t.pc, t.cycles)) (start [0x84, 0x08] 0 0 0 0 0 0xFF) = some (1, 18) ∧
      see (fun t => (t.pc, t.cycles)) (start [0x88, 0x10] 0 0 0 0 0 0xFF) = some (1, 18) := by decide

/-- Section 2.2: `hlt` at 8. -/
theorem test_hlt : see (fun t => (t.pc, t.cycles, t.complete)) (start [0x83] 0 0 0 0 0 8) = some (9, 0, false) := by decide

/-- Section 2.2: an unassigned opcode; a cost above the budget; a reserved register code. -/
theorem test_stops :
    see (fun t => (t.complete, t.cycles, t.pc)) (start [0xD8] 0 0 0 0 0 0) = some (true, 20, 0) ∧
      see (fun t => (t.complete, t.cycles, t.pc, t.regs.r0)) { start [0x12, 0x02, 0x80] 0 0 0 0 0 0 with cycles := 2 } =
        some (true, 2, 0, 0) ∧
      see (fun t => (t.complete, t.cycles, t.pc, t.outcome)) (start [0x09, 0x80, 0x80] 0 0 0 0 0 0) =
        some (true, 17, 0, some .fail) := by decide

/-- Section 2.9: `send r0, r1, [0]` at 0x10, port 1, two bytes, with the environment's answers given. -/
def sender (script : List PortAnswer) : State :=
  let s := poke 1 0x50 (poke 0 0xC2 (start [0xC2, 0x50, 0x00] 1 2 0 0 0 0x10))
  { s with env := { s.env with script := script } }

/-- Section 2.9. -/
theorem test_send_retry :
    see (fun t => (t.cycles, t.pc, t.complete, t.message)) (sender [.retry]) =
      some (20, 0x10, false,
        { status := .sendPending, port := 1, offset := 0, size := 2, timestamp := 17, wait := 0 }) := by decide

/-- Section 2.9: the payload, and a wait beyond the budget. -/
theorem test_send_success :
    see (fun t => (t.cycles, t.pc, t.message.wait, t.env.outputs)) (sender [.success 25 []]) =
      some (0, 0x13, 8,
        [.request { direction := .send, port := 1, payload := [0xC2, 0x50], timestamp := 17 }]) := by decide

/-- Section 2.9: `recv 1, [0xFF]` and `recv r1, [0]`, with the environment's answer given. -/
def receiver (bytes : List Byte) (answer : PortAnswer) : State :=
  let s := start bytes 0 1 0 0 0x0F 0x10
  { s with env := { s.env with script := [answer] } }

/-- Section 2.9: a payload that wraps. -/
theorem test_recv_wraps :
    see (fun t => (t.mem.read 0xFF, t.mem.read 0, t.mem.read 1, t.pc, t.flags))
        (receiver [0xD4, 0x04, 0xFF] (.success 0 [0x11, 0x22, 0x33])) = some (0x11, 0x22, 0x33, 0x13, 0x0F) := by decide

/-- Section 2.9: the message after a payload of two bytes and after no payload. -/
theorem test_recv_message :
    see (fun t => (t.message, t.cycles)) (receiver [0xD2, 0x80, 0x00] (.success 0 [0xC2, 0x50])) =
        some ({ status := .idle, port := 1, offset := 0, size := 2, timestamp := 17, wait := 0 }, 17) ∧
      see (fun t => (t.message.size, t.cycles)) (receiver [0xD2, 0x80, 0x00] (.success 2 [])) = some (0, 15) := by decide

/-- A state with one breakpoint (section 2.10). -/
def broken (a : Byte) (bits : Access) (s : State) : State := setBreakpoint a bits s

/-- Section 2.10: `mov r1, [0x20]` with a read breakpoint, and with a write breakpoint only. -/
theorem test_breakpoint :
    see (fun t => (t.debugger.mode, t.cycles, t.pc, t.complete))
          (broken 0x20 { read := true, write := false } (start [0x15, 0x61, 0x00] 0 0 0 0 0 0)) =
        some (.pause, 20, 0, false) ∧
      see (fun t => (t.debugger.mode, t.pc))
          (broken 0x20 { read := false, write := true } (start [0x15, 0x61, 0x00] 0 0 0 0 0 0)) = some (.continue, 3) := by
  decide

/-- The fixed names on `mov r0, 5`, `12 02 80`: bits 7 to 0 are the first byte. -/
theorem test_fetch_word :
    decodeTableWord 24 0x800212 = some (.movRI (gp .r0) 5) ∧
      see r0FlagsPc (State.reset.withFetchWord 24 0x800212) = some (5, 0, 3) := by decide

/-- 60_exceptions.md R257 on the vectors of section 2.2. -/
theorem test_refill :
    (setCycles 3 { State.reset with message := { Message.idle with wait := 4 } }).message.wait = 1 ∧
      (setCycles 3 { State.reset with message := { Message.idle with wait := 4 } }).cycles = 0 := by decide

/-- 50_execution_graph.md R230: nothing decodes at the start. -/
theorem test_graph_empty : (build [] 0).map Graph.blocks = .ok [] := by decide

/-- 50_execution_graph.md R232 (d), 93_implementation_defined.md U7: `jz 3` with nothing at 3, then a `mov` that covers 3. -/
theorem test_graph_refuses_late_mid_target :
    build (Memory.store [] 0 [0x88, 0x0C, 0x12, 0x00, 0x00, 0x80]) 0 = .error (.midInstruction 3) := by rfl

/-- R224: an address inside `mov r0, 0`, which no jump targets, gives the block whose range holds it. -/
theorem test_buildBlock_finds_by_containment :
    ((buildBlock Graph.empty (Memory.store [] 0 [0x12, 0x00, 0x00, 0x80]) 0).bind fun b =>
        buildBlock b.1 (Memory.store [] 0 [0x12, 0x00, 0x00, 0x80]) 1).map Prod.snd = .ok (some 0) := by rfl

/-- 10_state.md R24, 60_exceptions.md R264: the debugger pauses, `Run` does nothing, the debugger resumes, `Run` runs. -/
theorem test_debugger_pauses :
    (run (pause (start [0x80] 0 0 0 0 0 8))).pc = 8 ∧ (run (pause (start [0x80] 0 0 0 0 0 8))).cycles = 20 ∧
      (run (resume (run (pause (start [0x80] 0 0 0 0 0 8))))).pc = 9 := by decide

/-- 70_reset_and_hazards.md R283, U16. -/
theorem test_destroyed :
    (call .destroy (.alive State.reset)).bind (call .run) = .error .destroyedProcessor := by rfl

/-! ### Witnesses: for every statement with hypotheses, a state and operands that meet all of them, clause by clause -/

/-- No breakpoint stands in a state without breakpoints. -/
theorem readClear_of_none (s : State) (o : Operand) (h : s.debugger.breakpoints = []) : readClear s o := by
  intro a _
  simp [breakpointAt, h, look, noAccess]

theorem writeClear_of_none (s : State) (o : Operand) (h : s.debugger.breakpoints = []) : writeClear s o := by
  intro a _
  simp [breakpointAt, h, look, noAccess]

/-- `r0 = 9`, `r1 = 4`. -/
def plain : State := start [0x0D, 0x14] 9 4 0 0 0 0

/-- `plain` with a breakpoint on every access to address 4. -/
def stopped : State := broken 4 { read := true, write := true } plain

theorem witness_PaddingIsZeroAndIgnored : (bytesBits [0x83]).take (Instr.bitLength .hlt) = encodeBits .hlt := by decide

theorem witness_FirstByteHoldsOpcode : decode [0x83, 0xFF] = some .hlt := by decide

/-- The bounds of the unassigned opcodes: 0, 1, 54 and 63. -/
theorem witness_UnassignedSlotsStop :
    (∀ b ∈ [(0x00 : Byte), 0x07, 0xD8, 0xFF],
        (start [b] 0 0 0 0 0 0).debugger.mode = .continue ∧ (start [b] 0 0 0 0 0 0).mem.read 0 = b ∧
          (b.toNat / 4 ≤ 1 ∨ 54 ≤ b.toNat / 4)) ∧
      decode [0x08, 0x00, 0x00] ≠ none ∧ decode [0xD7, 0xFF, 0xFF, 0xFF] ≠ none := by decide

theorem witness_ReservedRegisterCodesFail :
    let s := start [0x14, 0x90] 0 0 0 0 0 0
    s.debugger.mode = .continue ∧ fetch s = some (.movRM (.reg .naInvalid) (rm .r0)) ∧
      Instr.wellFormed (.movRM (.reg .naInvalid) (rm .r0)) = false ∧ cost (.movRM (.reg .naInvalid) (rm .r0)) ≤ s.cycles := by
  decide

theorem witness_RowSelectionFindsOpcode :
    Instr.wellFormed (.sendRIM (gp .r0) 4 (.ind .r2)) = true ∧
      rowMatches "send" [.reg (.gp .r0), .imm 4, .mem (.ind .r2)] 49 = true := by decide

theorem witness_CreateAndResetValues :
    (∃ t, t = create Binary.zero) ∧ ∃ t, t = resetTo Binary.zero plain := ⟨⟨_, rfl⟩, _, rfl⟩

theorem witness_StepKeepsInv : plain.Inv ∧ ∃ t, step plain = .next t ∧ t.outcome = some .success := by
  exact ⟨by decide, _, rfl, rfl⟩

theorem witness_HostOperationsKeepInv : stopped.Inv ∧ ∃ P, call .run (.alive stopped) = .ok P := ⟨by decide, _, rfl⟩

theorem witness_StoreSeenByNextFetch :
    let s := start [0x16, 0x01, 0xA0] 0x80 0 0 0 0 0
    effectiveAddress s (.abs 3) = nextPc (.movRM (.mem (.abs 3)) (rm .r0)) s ∧ s.regs.get .r0 = 0x80 ∧
      writeClear s (.mem (.abs 3)) := by
  exact ⟨by decide, by decide, writeClear_of_none _ _ rfl⟩

/-- The clauses of `StepRunsDecoded`: paused; nothing decodes; a cost equal to the budget; a cost one above it. -/
theorem witness_StepRunsDecoded :
    (setDebugMode .pause plain).debugger.mode = .pause ∧
      ((start [0x00] 0 0 0 0 0 0).debugger.mode = .continue ∧
        decode ((start [0x00] 0 0 0 0 0 0).mem.bytes (start [0x00] 0 0 0 0 0 0).pc 5) = none) ∧
      plain.debugger.mode = .continue ∧ decode (plain.mem.bytes plain.pc 5) = some (.addRM (rm .r0) (rm .r1)) ∧
      cost (.addRM (rm .r0) (rm .r1)) ≤ State.cycles { plain with cycles := 2 } ∧
      State.cycles { plain with cycles := 1 } < cost (.addRM (rm .r0) (rm .r1)) := by decide

theorem witness_StepRunsEncoded :
    plain.debugger.mode = .continue ∧
      (∀ k (h : k < (encode (.addRM (rm .r0) (rm .r1))).length),
        plain.mem.read (plain.pc + BitVec.ofNat 8 k) = (encode (.addRM (rm .r0) (rm .r1)))[k]) ∧
      cost (.addRM (rm .r0) (rm .r1)) ≤ plain.cycles := by
  refine ⟨by decide, ?_, by decide⟩
  intro k h
  match k, h with
  | 0, _ => rfl
  | 1, _ => rfl

theorem witness_RunAlwaysReturns : plain.cycles < 21 := by decide

theorem witness_SuccessPaysCost : ∃ t, step plain = .next t ∧ t.outcome = some .success := ⟨_, rfl, rfl⟩

/-- Of `StopsArePrecise`: a failed instruction that paid, a `send` that posted, a breakpoint that paused. -/
theorem witness_StopsArePrecise :
    (∃ t, step (start [0x14, 0x90] 0 0 0 0 0 0) = .next t ∧ t.outcome ≠ some .success ∧ t.cycles = 18) ∧
      (∃ t, step (sender [.timeout]) = .next t ∧ t.outcome ≠ some .success ∧ t.message ≠ (sender [.timeout]).message) ∧
      ∃ t, step (broken 4 { read := true, write := false } (start [0x15, 0x60, 0x20] 0 0 0 0 0 0)) = .next t ∧
        t.outcome ≠ some .success ∧ t.debugger.mode = .pause := by
  exact ⟨⟨_, rfl, by decide, by decide⟩, ⟨_, rfl, by decide, by decide⟩, _, rfl, by decide, by decide⟩

/-- Of `ResumptionAfterStops`: an exhausted budget, a stall, an unassigned opcode, and a failed instruction with a refill
that pays it. -/
theorem witness_ResumptionAfterStops :
    (∃ t, step { plain with cycles := 1 } = .next t ∧ t.outcome = some .budgetExhausted) ∧
      (∃ t, step (sender [.retry]) = .next t ∧ t.outcome = some .stall) ∧
      (∃ t, step (start [0x00] 0 0 0 0 0 0) = .next t ∧ t.outcome = some .invalidOpcode ∧ fetch t = none) ∧
      ∃ t, step (start [0x14, 0x90] 0 0 0 0 0 0) = .next t ∧ t.outcome = some .fail ∧
        ∀ i, fetch t = some i → cost i ≤ (setCycles 2 t).cycles := by
  refine ⟨⟨_, rfl, by decide⟩, ⟨_, rfl, by decide⟩, ⟨_, rfl, by decide, by decide⟩, _, rfl, by decide, ?_⟩
  intro i h
  have hf : some i = some (.movRM (.reg .naInvalid) (rm .r0)) := h.symm.trans (by decide)
  cases hf
  decide

theorem witness_StepKeepsConnections :
    ∃ t, step (broken 4 { read := true, write := false } (start [0x15, 0x60, 0x20] 0 0 0 0 0 0)) = .next t ∧
      t.debugger.mode = .pause := ⟨_, rfl, by decide⟩

theorem witness_InvalidOperandFails : Instr.wellFormed (.recvRM .naInvalid (.ind .r0)) = false := by decide

/-- Of `StopConditionsByInstruction`: a failure and a stall. -/
theorem witness_StopConditionsByInstruction :
    (∃ t, exec (.recvRM .naInvalid (.ind .r0)) plain = .next t ∧ t.outcome = some .fail ∧
        Instr.wellFormed (.recvRM .naInvalid (.ind .r0)) = false) ∧
      ∃ t, exec (.not (.mem (.abs 4))) stopped = .next t ∧ t.outcome = some .stall :=
  ⟨⟨_, rfl, rfl, by decide⟩, _, rfl, rfl⟩

/-- Of `BreakpointDecidesStall`: a read hit, a write hit, and no hit. -/
theorem witness_BreakpointDecidesStall :
    isPort (.movRM (rm .r0) (.mem (.ind .r1))) = false ∧ Instr.wellFormed (.movRM (rm .r0) (.mem (.ind .r1))) = true ∧
      (∃ a ∈ dataReads stopped (.movRM (rm .r0) (.mem (.ind .r1))), (breakpointAt stopped a).read = true) ∧
      (∃ a ∈ dataWrites stopped (.movRM (.mem (.ind .r1)) (rm .r0)), (breakpointAt stopped a).write = true) ∧
      (∀ a ∈ dataReads stopped (.movRM (.mem (.ind .r1)) (rm .r0)), (breakpointAt stopped a).read = false) ∧
      (∀ a ∈ dataWrites stopped (.movRM (rm .r0) (.mem (.ind .r1))), (breakpointAt stopped a).write = false) := by decide

theorem witness_OthersKeepFlags :
    ∃ t, exec (.movRI (gp .r0) 5) plain = .next t ∧ writesFlags (.movRI (gp .r0) 5) = false ∧
      operand0 (.movRI (gp .r0) 5) ≠ .reg .flags := ⟨_, rfl, by decide, by decide⟩

theorem witness_UpperFlagBits :
    (∃ t, exec (.addRM (rm .r0) (rm .r1)) plain = .next t ∧ writesFlags (.addRM (rm .r0) (rm .r1)) = true ∧
        t.outcome = some .success) ∧
      (Form2 .movRI .movRM (.movRM (.reg (.reg .flags)) (.mem (.ind .r1))) (.reg .flags) (.mem (.ind .r1)) ∧
        readOperand plain (.mem (.ind .r1)) = some 0 ∧ readClear plain (.mem (.ind .r1))) ∧
      isJump (.jz 4) = true ∧ (0xF0 : Byte) &&& 0x0F = plain.flags &&& 0x0F ∧
      ∃ t u, exec (.jz 4) plain = .next t ∧ exec (.jz 4) { plain with flags := 0xF0 } = .next u :=
  ⟨⟨_, rfl, by decide, rfl⟩, ⟨Or.inr ⟨_, _, rfl, rfl, rfl⟩, by decide, readClear_of_none _ _ rfl⟩, by decide, by decide, _,
    _, rfl, rfl⟩

theorem witness_PredictableFlowAdvances :
    predictableFlow (.cmpRM (.reg (.reg .pc)) (rm .r0)) = true ∧
      ∃ t, exec (.cmpRM (.reg (.reg .pc)) (rm .r0)) plain = .next t ∧ t.outcome = some .success :=
  ⟨by decide, _, rfl, rfl⟩

/-- Of `ControlFlowSaysWherePcGoes`: a jump taken, and an instruction that is no branch. -/
theorem witness_ControlFlowSaysWherePcGoes :
    (∃ t, exec (.jmp 4) plain = .next t ∧ t.outcome = some .success ∧
        (getControlFlow plain.pc (.jmp 4)).target = .static 4) ∧
      ∃ t, exec .hlt plain = .next t ∧ t.outcome = some .success ∧
        (getControlFlow plain.pc .hlt).effect ≠ .branch :=
  ⟨⟨_, rfl, rfl, by decide⟩, _, rfl, rfl, by decide⟩

theorem witness_DataIndependentOfControlState :
    isPort (.addRM (rm .r0) (rm .r1)) = false ∧
      ∃ t u, exec (.addRM (rm .r0) (rm .r1)) plain = .next t ∧
        exec (.addRM (rm .r0) (rm .r1)) { plain with cycles := 0, complete := true } = .next u :=
  ⟨by decide, _, _, rfl, rfl⟩

/-- Of `OutputsAreHookCalls`: success, failure and stall. -/
theorem witness_OutputsAreHookCalls :
    (∃ t, exec (.addRM (rm .r0) (rm .r1)) plain = .next t ∧ t.outcome = some .success) ∧
      (∃ t, exec (.addRM (rm .r0) (.reg .naInvalid)) plain = .next t ∧ t.outcome = some .fail) ∧
      ∃ t, exec (.not (.mem (.abs 4))) stopped = .next t ∧ t.outcome = some .stall ∧ stopped.debugger.mode = .continue :=
  ⟨⟨_, rfl, rfl⟩, ⟨_, rfl, rfl⟩, _, rfl, rfl, by decide⟩

/-- Of `MovCopiesByte`: a copy, an invalid operand, a breakpoint. -/
theorem witness_MovCopiesByte :
    (Form2 .movRI .movRM (.movRM (.mem (.abs 4)) (rm .r1)) (.mem (.abs 4)) (.reg (.gp .r1)) ∧
        readOperand plain (.reg (.gp .r1)) = some 4 ∧ readOperand plain (.mem (.abs 4)) = some 0 ∧
        readClear plain (.reg (.gp .r1)) ∧ writeClear plain (.mem (.abs 4))) ∧
      Form2 .movRI .movRM (.movRI .naInvalid 1) .naInvalid (.imm 1) ∧
      ¬(readClear stopped (.reg (.gp .r1)) ∧ writeClear stopped (.mem (.abs 4))) := by
  refine ⟨⟨Or.inr ⟨_, _, rfl, rfl, rfl⟩, by decide, by decide, readClear_of_none _ _ rfl, writeClear_of_none _ _ rfl⟩,
    Or.inl ⟨_, _, rfl, rfl, rfl⟩, ?_⟩
  rintro ⟨-, h⟩
  exact absurd (h 4 rfl) (by decide)

/-- Both rows of every two-operand instruction meet the hypotheses of `Mutates2` on `plain`. -/
theorem ready_plain (ri : RegOp → Byte → Instr) (rm2 : RMOp → RMOp → Instr) :
    (Form2 ri rm2 (ri (gp .r0) 4) (.reg (.gp .r0)) (.imm 4) ∧ Ready2 plain (.reg (.gp .r0)) (.imm 4) 9 4) ∧
      Form2 ri rm2 (rm2 (.mem (.abs 0)) (rm .r1)) (.mem (.abs 0)) (.reg (.gp .r1)) ∧
      Ready2 plain (.mem (.abs 0)) (.reg (.gp .r1)) 0x0D 4 :=
  ⟨⟨Or.inl ⟨_, _, rfl, rfl, rfl⟩, by decide, by decide, readClear_of_none _ _ rfl, writeClear_of_none _ _ rfl,
      readClear_of_none _ _ rfl⟩,
    Or.inr ⟨_, _, rfl, rfl, rfl⟩, by decide, by decide, readClear_of_none _ _ rfl, writeClear_of_none _ _ rfl,
      readClear_of_none _ _ rfl⟩

theorem witness_AddResult :
    Form2 .addRI .addRM (.addRI (gp .r0) 4) (.reg (.gp .r0)) (.imm 4) ∧ Ready2 plain (.reg (.gp .r0)) (.imm 4) 9 4 :=
  ⟨(ready_plain .addRI .addRM).1.1, (ready_plain .addRI .addRM).1.2⟩

theorem witness_SubResult :
    Form2 .subRI .subRM (.subRI (gp .r0) 4) (.reg (.gp .r0)) (.imm 4) ∧ Ready2 plain (.reg (.gp .r0)) (.imm 4) 9 4 :=
  ⟨(ready_plain .subRI .subRM).1.1, (ready_plain .subRI .subRM).1.2⟩

theorem witness_MulResult :
    Form2 .mulRI .mulRM (.mulRI (gp .r0) 4) (.reg (.gp .r0)) (.imm 4) ∧ Ready2 plain (.reg (.gp .r0)) (.imm 4) 9 4 :=
  ⟨(ready_plain .mulRI .mulRM).1.1, (ready_plain .mulRI .mulRM).1.2⟩

theorem witness_LogicResults :
    Form2 .andRI .andRM (.andRI (gp .r0) 4) (.reg (.gp .r0)) (.imm 4) ∧ Ready2 plain (.reg (.gp .r0)) (.imm 4) 9 4 :=
  ⟨(ready_plain .andRI .andRM).1.1, (ready_plain .andRI .andRM).1.2⟩

theorem witness_ShlResult :
    Form2 .shlRI .shlRM (.shlRI (gp .r0) 4) (.reg (.gp .r0)) (.imm 4) ∧ Ready2 plain (.reg (.gp .r0)) (.imm 4) 9 4 :=
  ⟨(ready_plain .shlRI .shlRM).1.1, (ready_plain .shlRI .shlRM).1.2⟩

theorem witness_ShrResult :
    Form2 .shrRI .shrRM (.shrRI (gp .r0) 4) (.reg (.gp .r0)) (.imm 4) ∧ Ready2 plain (.reg (.gp .r0)) (.imm 4) 9 4 :=
  ⟨(ready_plain .shrRI .shrRM).1.1, (ready_plain .shrRI .shrRM).1.2⟩

/-- A divisor of 0. -/
theorem ready_plain_zero : Ready2 plain (.reg (.gp .r0)) (.imm 0) 9 0 :=
  ⟨by decide, by decide, readClear_of_none _ _ rfl, writeClear_of_none _ _ rfl, readClear_of_none _ _ rfl⟩

theorem witness_UnsignedDivisionResults :
    (Form2 .udivRI .udivRM (.udivRI (gp .r0) 4) (.reg (.gp .r0)) (.imm 4) ∧ Ready2 plain (.reg (.gp .r0)) (.imm 4) 9 4 ∧
        (4 : Byte) ≠ 0) ∧
      Form2 .udivRI .udivRM (.udivRI (gp .r0) 0) (.reg (.gp .r0)) (.imm 0) ∧ Ready2 plain (.reg (.gp .r0)) (.imm 0) 9 0 :=
  ⟨⟨(ready_plain .udivRI .udivRM).1.1, (ready_plain .udivRI .udivRM).1.2, by decide⟩, Or.inl ⟨_, _, rfl, rfl, rfl⟩,
    ready_plain_zero⟩

theorem witness_SdivResult :
    (Form2 .sdivRI .sdivRM (.sdivRI (gp .r0) 4) (.reg (.gp .r0)) (.imm 4) ∧ Ready2 plain (.reg (.gp .r0)) (.imm 4) 9 4 ∧
        (4 : Byte) ≠ 0) ∧
      Form2 .sdivRI .sdivRM (.sdivRI (gp .r0) 0) (.reg (.gp .r0)) (.imm 0) ∧ Ready2 plain (.reg (.gp .r0)) (.imm 0) 9 0 :=
  ⟨⟨(ready_plain .sdivRI .sdivRM).1.1, (ready_plain .sdivRI .sdivRM).1.2, by decide⟩, Or.inl ⟨_, _, rfl, rfl, rfl⟩,
    ready_plain_zero⟩

theorem witness_SmodResult :
    (Form2 .smodRI .smodRM (.smodRI (gp .r0) 4) (.reg (.gp .r0)) (.imm 4) ∧ Ready2 plain (.reg (.gp .r0)) (.imm 4) 9 4 ∧
        (4 : Byte) ≠ 0) ∧
      Form2 .smodRI .smodRM (.smodRI (gp .r0) 0) (.reg (.gp .r0)) (.imm 0) ∧ Ready2 plain (.reg (.gp .r0)) (.imm 0) 9 0 :=
  ⟨⟨(ready_plain .smodRI .smodRM).1.1, (ready_plain .smodRI .smodRM).1.2, by decide⟩, Or.inl ⟨_, _, rfl, rfl, rfl⟩,
    ready_plain_zero⟩

theorem witness_CmpSetsFlagsOnly :
    Form2 .cmpRI .cmpRM (.cmpRI (gp .r0) 4) (.reg (.gp .r0)) (.imm 4) ∧ ReadyRead plain (.reg (.gp .r0)) (.imm 4) 9 4 :=
  ⟨Or.inl ⟨_, _, rfl, rfl, rfl⟩, by decide, by decide, readClear_of_none _ _ rfl, readClear_of_none _ _ rfl⟩

theorem witness_NegResult :
    readOperand plain (rm .r0).operand = some 9 ∧ readClear plain (rm .r0).operand ∧ writeClear plain (rm .r0).operand :=
  ⟨by decide, readClear_of_none _ _ rfl, writeClear_of_none _ _ rfl⟩

theorem witness_NotResult :
    readOperand plain (RMOp.mem (.abs 1)).operand = some 0x14 ∧ readClear plain (RMOp.mem (.abs 1)).operand ∧
      writeClear plain (RMOp.mem (.abs 1)).operand :=
  ⟨by decide, readClear_of_none _ _ rfl, writeClear_of_none _ _ rfl⟩

/-- Of `DivisionByZero`: two of the four instructions on one state. -/
theorem witness_DivisionByZero :
    Form2 .smodRI .smodRM (.smodRI (gp .r0) 0) (.reg (.gp .r0)) (.imm 0) ∧
      Form2 .udivRI .udivRM (.udivRI (gp .r0) 0) (.reg (.gp .r0)) (.imm 0) ∧
      Ready2 plain (.reg (.gp .r0)) (.imm 0) 9 0 ∧
      ∃ t u, exec (.smodRI (gp .r0) 0) plain = .next t ∧ exec (.udivRI (gp .r0) 0) plain = .next u :=
  ⟨Or.inl ⟨_, _, rfl, rfl, rfl⟩, Or.inl ⟨_, _, rfl, rfl, rfl⟩, ready_plain_zero, _, _, rfl, rfl⟩

theorem witness_FlagJumps : FlagJump 4 true false true (.jz 4) 34 true ∧ FlagJump 4 true false true (.jno 4) 39 false := by
  simp [FlagJump]

theorem witness_OrderJumps :
    OrderJump 4 true false false true (.jsg 4) 43 false ∧ OrderJump 4 false false false true (.jug 4) 47 true ∧
      Form2 .cmpRI .cmpRM (.cmpRI (gp .r0) 4) (.reg (.gp .r0)) (.imm 4) ∧ ReadyRead plain (.reg (.gp .r0)) (.imm 4) 9 4 ∧
      ∃ t, exec (.cmpRI (gp .r0) 4) plain = .next t :=
  ⟨by simp [OrderJump], by simp [OrderJump], witness_CmpSetsFlagsOnly.1, witness_CmpSetsFlagsOnly.2, _, rfl⟩

theorem witness_HaltGivesUpBudget : plain.debugger.mode = .continue := by decide

/-- Of `SendResult`: an invalid operand; no breakpoint and an accepted request; a refused request; and a breakpoint on
the last byte of the window. -/
theorem witness_SendResult :
    let s := sender [.success 5 []]
    let b := broken 1 { read := true, write := false } (sender [])
    FormSend (.sendRRM .naInvalid (gp .r1) (.abs 0)) .naInvalid (.reg (.gp .r1)) (.abs 0) ∧
      (FormSend (.sendRRM (gp .r0) (gp .r1) (.abs 0)) (.reg (.gp .r0)) (.reg (.gp .r1)) (.abs 0) ∧
        readOperand s (.reg (.gp .r0)) = some 1 ∧ readOperand s (.reg (.gp .r1)) = some 2 ∧
        (∀ k, k < (2 : Byte).toNat → (breakpointAt s (windowByte (effectiveAddress s (.abs 0)) k)).read = false) ∧
        answerOf (sendRequest s 1 2 (effectiveAddress s (.abs 0))) s = .success 5 []) ∧
      (∀ w p, answerOf (sendRequest (sender [.retry]) 1 2 0) (sender [.retry]) ≠ .success w p) ∧
      1 < (2 : Byte).toNat ∧ (breakpointAt b (windowByte (effectiveAddress b (.abs 0)) 1)).read = true ∧
      readOperand b (.reg (.gp .r0)) = some 1 ∧ readOperand b (.reg (.gp .r1)) = some 2 := by
  refine ⟨Or.inl ⟨_, _, rfl, rfl, rfl⟩, ⟨Or.inl ⟨_, _, rfl, rfl, rfl⟩, by decide, by decide, fun _ _ => rfl, rfl⟩, ?_,
    by decide, by decide, by decide, by decide⟩
  intro w p h
  exact PortAnswer.noConfusion h

/-- Of `RecvResult`: an invalid operand; a payload of the greatest length, 255 bytes, accepted; a breakpoint on the first
byte of the window; and a request deferred. -/
theorem witness_RecvResult :
    let s := receiver [0xD2, 0x80, 0x00] (.success 0 (List.replicate 255 7))
    let b := broken 0 { read := false, write := true } (receiver [0xD2, 0x80, 0x00] (.success 0 [7]))
    FormRecv (.recvRM .naInvalid (.abs 0)) .naInvalid (.abs 0) ∧
      (FormRecv (.recvRM (gp .r1) (.abs 0)) (.reg (.gp .r1)) (.abs 0) ∧ readOperand s (.reg (.gp .r1)) = some 1 ∧
        answerOf (recvRequest s 1 (effectiveAddress s (.abs 0))) s = .success 0 (List.replicate 255 7) ∧
        (List.replicate 255 (7 : Byte)).length ≤ 255 ∧
        ∀ k, k < (List.replicate 255 (7 : Byte)).length →
          (breakpointAt s (windowByte (effectiveAddress s (.abs 0)) k)).write = false) ∧
      ((breakpointAt b (windowByte (effectiveAddress b (.abs 0)) 0)).write = true ∧
        answerOf (recvRequest b 1 (effectiveAddress b (.abs 0))) b = .success 0 [7] ∧
        readOperand b (.reg (.gp .r1)) = some 1) ∧
      ∀ w p, answerOf (recvRequest (receiver [0xD2, 0x80, 0x00] .defer) 1 0) (receiver [0xD2, 0x80, 0x00] .defer) ≠
        .success w p := by
  refine ⟨Or.inl ⟨_, rfl, rfl⟩,
    ⟨Or.inl ⟨_, rfl, rfl⟩, by decide, rfl, Nat.le_of_eq List.length_replicate, fun _ _ => rfl⟩,
    ⟨by decide, rfl, by decide⟩, ?_⟩
  intro w p h
  exact PortAnswer.noConfusion h

/-- Of `PortRequestsGivenOut`: a `send` of no byte, a `recv` deferred, and a `recv` that hits a breakpoint. -/
theorem witness_PortRequestsGivenOut :
    let b := broken 0 { read := false, write := true } (receiver [0xD2, 0x80, 0x00] (.success 0 [7]))
    (FormSend (.sendIIM 1 0 (.abs 0)) (.imm 1) (.imm 0) (.abs 0) ∧ readOperand plain (.imm 0) = some 0 ∧
        ∀ k, k < (0 : Byte).toNat →
          (breakpointAt plain (windowByte (effectiveAddress plain (.abs 0)) k)).read = false) ∧
      (FormRecv (.recvIM 1 (.abs 0)) (.imm 1) (.abs 0) ∧ readOperand plain (.imm 1) = some 1) ∧
      (∀ w p, answerOf (recvRequest (receiver [] .defer) 1 0) (receiver [] .defer) ≠ .success w p) ∧
      answerOf (recvRequest b 1 (effectiveAddress b (.abs 0))) b = .success 0 [7] ∧ [(7 : Byte)].length ≤ 255 ∧
      (breakpointAt b (windowByte (effectiveAddress b (.abs 0)) 0)).write = true := by
  refine ⟨⟨Or.inr (Or.inr (Or.inr ⟨_, _, rfl, rfl, rfl⟩)), rfl, fun _ _ => rfl⟩, ⟨Or.inr ⟨_, rfl, rfl⟩, rfl⟩, ?_, rfl,
    by decide, by decide⟩
  intro w p h
  exact PortAnswer.noConfusion h

/-- Of `RetryRepeatsRequest`: a `send` told to retry and a `recv` told to time out. -/
theorem witness_RetryRepeatsRequest :
    (FormSend (.sendRRM (gp .r0) (gp .r1) (.abs 0)) (.reg (.gp .r0)) (.reg (.gp .r1)) (.abs 0) ∧
        readOperand (sender [.retry]) (.reg (.gp .r0)) = some 1 ∧ readOperand (sender [.retry]) (.reg (.gp .r1)) = some 2 ∧
        ∃ t, exec (.sendRRM (gp .r0) (gp .r1) (.abs 0)) (sender [.retry]) = .next t ∧ t.outcome = some .stall ∧
          t.debugger.mode = (sender [.retry]).debugger.mode ∧ (sender [.retry]).debugger.mode = .continue) ∧
      FormRecv (.recvRM (gp .r1) (.abs 0)) (.reg (.gp .r1)) (.abs 0) ∧
      readOperand (receiver [] .timeout) (.reg (.gp .r1)) = some 1 ∧
      ∃ t, exec (.recvRM (gp .r1) (.abs 0)) (receiver [] .timeout) = .next t ∧ t.outcome = some .stall :=
  ⟨⟨Or.inl ⟨_, _, rfl, rfl, rfl⟩, by decide, by decide, _, rfl, rfl, by decide, by decide⟩, Or.inl ⟨_, rfl, rfl⟩,
    by decide, _, rfl, rfl⟩

theorem witness_RefillPaysWaitFirst :
    (∃ t, t = setCycles 3 plain) ∧ ∃ t, t = addProcessingTime (1 / 2) plain := ⟨⟨_, rfl⟩, _, rfl⟩

theorem witness_ConnectAndDisconnect :
    (1 : Byte) ≠ 0 ∧ ∃ P, call .destroy (.alive (connect 1 7 plain)) = .ok P := ⟨by decide, _, rfl⟩

/-- Memory with `cmp r0, [r1]` at 0, a `jmp` to itself behind it, and `hlt` at 0x10. -/
def twoNodes : Memory := Memory.store (Memory.store [] 0 [0x4D, 0x2A, 0x84, 0x00]) 0x10 [0x80]

/-- The nodes of its graph from 0. -/
def cmpNode : Node := { state := { instr := .cmpRM (rm .r0) (.mem (.ind .r1)), offset := 0, length := 2 }, jump := none }

def jmpNode : Node := { state := { instr := .jmp 0, offset := 2, length := 2 }, jump := some 0 }

/-- Its graph from 0: one block of two nodes, the second a jump to it. -/
def oneBlock : Graph := { blocks := [{ id := 0, start := 0, length := 4, nodes := [cmpNode, jmpNode] }], nextId := 1 }

theorem build_twoNodes : build twoNodes 0 = .ok oneBlock := by rfl

/-- A further block is built at 0x10, and an address inside the block of 0 finds it. -/
theorem buildBlock_oneBlock :
    (∃ g, buildBlock oneBlock twoNodes 0x10 = .ok (g, some 1) ∧ g.blocks.length = 2) ∧
      buildBlock oneBlock twoNodes 1 = .ok (oneBlock, some 0) := ⟨⟨_, rfl, rfl⟩, rfl⟩

theorem oneBlock_layout : oneBlock.Layout twoNodes where
  disjoint := by
    intro b hb c hc _ _ _
    rw [List.mem_singleton.mp hb, List.mem_singleton.mp hc]
  numbered := by decide
  contiguous := by
    intro b hb
    rw [List.mem_singleton.mp hb]
    exact ⟨⟨rfl, rfl, trivial⟩, by decide, by decide, by decide⟩
  decoded := by decide

theorem witness_GraphBlocksAreDisjoint :
    oneBlock.Layout twoNodes ∧ ∃ g, buildBlock oneBlock twoNodes 0x10 = .ok (g, some 1) := ⟨oneBlock_layout, _, rfl⟩

theorem witness_GraphJumpsReachTargets :
    oneBlock.Layout twoNodes ∧ oneBlock.JumpsReach twoNodes ∧
      ∃ g, buildBlock oneBlock twoNodes 0x10 = .ok (g, some 1) := by
  refine ⟨oneBlock_layout, ?_, _, rfl⟩
  intro b hb n hn
  rw [List.mem_singleton.mp hb] at hn
  rcases List.mem_pair.mp hn with rfl | rfl
  · exact rfl
  · refine ⟨Or.inr ⟨_, List.mem_singleton.mpr rfl, rfl, by decide⟩, ?_⟩
    intro c hc _
    rw [List.mem_singleton.mp hc]
    decide

/-- Of `GraphStopsEndBlocks`: the first node of `oneBlock` is no stop, its second and last is one. -/
theorem witness_GraphStopsEndBlocks :
    oneBlock.Layout twoNodes ∧ oneBlock.StopsEndBlocks twoNodes ∧
      ∃ g, buildBlock oneBlock twoNodes 0x10 = .ok (g, some 1) := by
  refine ⟨oneBlock_layout, ?_, _, rfl⟩
  intro b hb k n hn
  rw [List.mem_singleton.mp hb] at hn ⊢
  match k, hn with
  | 0, hn =>
    cases Option.some.inj hn
    exact ⟨fun h => absurd h (by unfold Node.Stops; decide), fun h => absurd h (by decide)⟩
  | 1, hn =>
    cases Option.some.inj hn
    exact ⟨fun _ => rfl, fun _ => Or.inl (Or.inr (by decide))⟩
  | _ + 2, hn => exact nomatch hn

theorem witness_GraphBuilderTerminates : oneBlock.Layout twoNodes := oneBlock_layout

/-- Of `GraphHoldsStart`: an address inside a block, one at which nothing decodes, and one at which something does. -/
theorem witness_GraphHoldsStart :
    oneBlock.Layout twoNodes ∧
      (buildBlock oneBlock twoNodes 1 = .ok (oneBlock, some 0) ∧ ∃ b ∈ oneBlock.blocks, b.covers 1 = true) ∧
      (∃ g, buildBlock oneBlock twoNodes 4 = .ok (g, none) ∧ (∀ b ∈ oneBlock.blocks, b.covers 4 = false) ∧
        decode (twoNodes.bytes 4 5) = none) ∧
      ∃ g, buildBlock oneBlock twoNodes 0x10 = .ok (g, some 1) ∧ (∀ b ∈ oneBlock.blocks, b.covers 0x10 = false) ∧
        (decode (twoNodes.bytes 0x10 5)).isSome = true :=
  ⟨oneBlock_layout, ⟨rfl, by decide⟩, ⟨_, rfl, by decide, by decide⟩, _, rfl, by decide, by decide⟩

end Sys2Proof.Tests
end

section
/-! PROOFS. The statements about the state (spec/10_state.md): which instructions change the connections, the debugger's
part and `flags` (O22, O26, O27), and that no instruction but `send` and `recv` reads the control state (O30). -/

namespace Sys2Proof.Machine

open Sys2Proof

/-! ### The state an operation answers -/

/-- The state a result carries, however it ends. -/
def Result.state : Result → State
  | .success t _ => t
  | .stall t => t
  | .fail t => t

@[simp] theorem Result.state_success (t : State) (b : Bool) : (Result.success t b).state = t := rfl
@[simp] theorem Result.state_stall (t : State) : (Result.stall t).state = t := rfl
@[simp] theorem Result.state_fail (t : State) : (Result.fail t).state = t := rfl

@[simp] theorem conclude_flags (i : Instr) (s : State) (R : Result) : (conclude i s R).flags = R.state.flags := by
  cases R <;> simp [conclude]
@[simp] theorem conclude_ports (i : Instr) (s : State) (R : Result) : (conclude i s R).ports = R.state.ports := by
  cases R <;> simp [conclude]
@[simp] theorem conclude_debugger (i : Instr) (s : State) (R : Result) :
    (conclude i s R).debugger = R.state.debugger := by
  cases R <;> simp [conclude]

/-- Only a result `success` ends in the outcome `Success` (R103). -/
theorem conclude_outcome_success (i : Instr) (s : State) (R : Result) :
    (conclude i s R).outcome = some .success ↔ ∃ t b, R = .success t b := by
  cases R <;> simp [conclude]

/-- Setting the debug mode changes nothing else of the debugger's part. -/
theorem setDebugMode_debugger (m : DebugMode) (s : State) :
    (setDebugMode m s).debugger = { s.debugger with mode := m } := by
  unfold setDebugMode
  split
  · rename_i h
    rw [← h]
  · simp

/-! ### The breakpoint check on resolved operands -/

theorem breakpointHit_eq_false (s : State) (reads writes : List Byte) :
    breakpointHit s reads writes = false ↔
      (∀ a ∈ reads, (breakpointAt s a).read = false) ∧ ∀ a ∈ writes, (breakpointAt s a).write = false := by
  simp [breakpointHit]

/-- The one address a resolved operand accesses is the operand's address. -/
theorem mem_placeAddresses {s : State} {o : Operand} {p : Place} (h : resolve s o = some p) (a : Byte) :
    a ∈ placeAddresses p ↔ operandAddress s o = some a := by
  cases o with
  | na | naInvalid => cases h
  | imm | rel | reg | mem =>
    cases h
    simp [placeAddresses, operandAddress, eq_comm]

theorem readClear_iff {s : State} {o : Operand} {p : Place} (h : resolve s o = some p) :
    readClear s o ↔ ∀ a ∈ placeAddresses p, (breakpointAt s a).read = false := by
  simp only [readClear, mem_placeAddresses h]

/-- Only the register itself resolves to a register. -/
theorem resolve_eq_register (s : State) (o : Operand) (r : Reg) : resolve s o = some (.register r) ↔ o = .reg r := by
  cases o <;> simp [resolve]

/-! ### Connections and the debugger's part (R23, R24) -/

/-- The connections are as they were, and of the debugger's part at most the mode changed, to `Pause`. -/
def PausedAtMost (s t : State) : Prop :=
  t.ports = s.ports ∧ (t.debugger = s.debugger ∨ t.debugger = { s.debugger with mode := .pause })

theorem PausedAtMost.of_eq {s t : State} (hp : t.ports = s.ports) (hd : t.debugger = s.debugger) : PausedAtMost s t :=
  ⟨hp, .inl hd⟩

theorem PausedAtMost.setPause {s t : State} (hp : t.ports = s.ports) (hd : t.debugger = s.debugger) :
    PausedAtMost s (setDebugMode .pause t) :=
  ⟨by simpa using hp, .inr (by rw [setDebugMode_debugger, hd])⟩

theorem exec2_pausedAtMost (op : Byte → Byte → Byte × Byte) (dst src : Operand) (s : State) :
    PausedAtMost s (exec2 op dst src s).state := by
  rcases exec2_cases op dst src s with ⟨h, -⟩ | ⟨d, b, -, -, ⟨-, h⟩ | ⟨-, h⟩⟩ <;> rw [h]
  · exact .of_eq rfl rfl
  · exact .setPause rfl rfl
  · exact .of_eq (by simp) (by simp)

theorem exec1_pausedAtMost (op : Byte → Byte × Byte) (dst : Operand) (s : State) :
    PausedAtMost s (exec1 op dst s).state := by
  rcases exec1_cases op dst s with ⟨h, -⟩ | ⟨d, -, ⟨-, h⟩ | ⟨-, h⟩⟩ <;> rw [h]
  · exact .of_eq rfl rfl
  · exact .setPause rfl rfl
  · exact .of_eq (by simp) (by simp)

theorem execFlagsOnly_pausedAtMost (op : Byte → Byte → Byte × Byte) (dst src : Operand) (s : State) :
    PausedAtMost s (execFlagsOnly op dst src s).state := by
  rcases execFlagsOnly_cases op dst src s with ⟨h, -⟩ | ⟨d, b, -, -, ⟨-, h⟩ | ⟨-, h⟩⟩ <;> rw [h]
  · exact .of_eq rfl rfl
  · exact .setPause rfl rfl
  · exact .of_eq rfl rfl

theorem execCopy_pausedAtMost (dst src : Operand) (s : State) : PausedAtMost s (execCopy dst src s).state := by
  rcases execCopy_cases dst src s with ⟨h, -⟩ | ⟨d, b, -, -, ⟨-, h⟩ | ⟨-, h⟩⟩ <;> rw [h]
  · exact .of_eq rfl rfl
  · exact .setPause rfl rfl
  · exact .of_eq (by simp) (by simp)

/-- A jump leaves all of the state but `pc` (R175). -/
theorem jump_state (cond : Byte → Bool) (rel : Byte) (s : State) :
    ∃ a, (jump cond rel s).state = { s with pc := a } := by
  rcases jump_cases cond rel s with ⟨-, h⟩ | ⟨-, h⟩ <;> rw [h]
  · exact ⟨_, rfl⟩
  · exact ⟨s.pc, rfl⟩

/-- A `send` fails on an invalid operand, or offers its window (R201). -/
theorem sendOperands_cases (port size : Operand) (win : MemOp) (s : State) :
    sendOperands port size win s = .fail s ∨
      ∃ p z, readOperand s port = some p ∧ readOperand s size = some z ∧
        sendOperands port size win s = sendWindow p z (effectiveAddress s win) s := by
  unfold sendOperands
  split
  · rename_i p z hp hz
    exact .inr ⟨p, z, hp, hz, rfl⟩
  · exact .inl rfl

/-- A `recv` fails on an invalid operand, or asks for its window (R202). -/
theorem recvOperands_cases (port : Operand) (win : MemOp) (s : State) :
    recvOperands port win s = .fail s ∨
      ∃ p, readOperand s port = some p ∧ recvOperands port win s = recvWindow p (effectiveAddress s win) s := by
  unfold recvOperands
  split
  · rename_i p hp
    exact .inr ⟨p, hp, rfl⟩
  · exact .inl rfl

/-- A `send` leaves `flags`, the connections and, but for a pause, the debugger's part. -/
theorem sendOperands_keeps (port size : Operand) (win : MemOp) (s : State) :
    (sendOperands port size win s).state.flags = s.flags ∧ PausedAtMost s (sendOperands port size win s).state := by
  rcases sendOperands_cases port size win s with h | ⟨p, z, -, -, h⟩ <;> rw [h]
  · exact ⟨rfl, .of_eq rfl rfl⟩
  · rcases sendWindow_cases p z (effectiveAddress s win) s with
      ⟨-, h⟩ | ⟨r, -, -, ⟨w, q, -, h⟩ | ⟨-, h⟩⟩ <;> rw [h]
    · exact ⟨by simp, .setPause rfl rfl⟩
    · exact ⟨by simp, .of_eq (by simp) (by simp)⟩
    · exact ⟨by simp, .of_eq (by simp) (by simp)⟩

/-- A `recv` leaves `flags`, the connections and, but for a pause, the debugger's part. -/
theorem recvOperands_keeps (port : Operand) (win : MemOp) (s : State) :
    (recvOperands port win s).state.flags = s.flags ∧ PausedAtMost s (recvOperands port win s).state := by
  rcases recvOperands_cases port win s with h | ⟨p, -, h⟩ <;> rw [h]
  · exact ⟨rfl, .of_eq rfl rfl⟩
  · obtain ⟨r, -, ⟨w, q, -, ⟨-, h⟩ | ⟨-, h⟩⟩ | ⟨-, h⟩⟩ := recvWindow_cases p (effectiveAddress s win) s <;> rw [h]
    · exact ⟨by simp, .setPause (by simp) (by simp)⟩
    · exact ⟨by simp, .of_eq (by simp) (by simp)⟩
    · exact ⟨by simp, .of_eq (by simp) (by simp)⟩

/-- No instruction changes the connections, the breakpoints or the hooks; at most it pauses the debugger. -/
theorem Shape.pausedAtMost {i : Instr} {s : State} {R : Result} (h : Shape i s R) : PausedAtMost s R.state := by
  cases h with
  | mutate2 op dst src => exact exec2_pausedAtMost op dst src s
  | mutate1 op dst => exact exec1_pausedAtMost op dst s
  | compare op dst src => exact execFlagsOnly_pausedAtMost op dst src s
  | copy dst src => exact execCopy_pausedAtMost dst src s
  | jump cond rel =>
    obtain ⟨a, h⟩ := jump_state cond rel s
    rw [h]
    exact .of_eq rfl rfl
  | halt => exact .of_eq rfl rfl
  | send port size win => exact (sendOperands_keeps port size win s).2
  | recv port win => exact (recvOperands_keeps port win s).2

/-- A step pauses the debugger at most: a stop before execution leaves its part, an execution does what the shape says. -/
theorem step_pausedAtMost {s t : State} (h : step s = .next t) : PausedAtMost s t := by
  rcases step_cases s t h with ⟨-, rfl⟩ | ⟨-, -, rfl⟩ | ⟨i, -, -, -, rfl⟩ | ⟨i, R, -, -, -, hR, rfl⟩
  · exact .of_eq rfl rfl
  · exact .of_eq rfl rfl
  · exact .of_eq rfl rfl
  · simpa [PausedAtMost] using hR.pausedAtMost

/-- Settles O22: of what a step may change, `PausedAtMost` leaves the mode only. -/
theorem stepKeepsConnections : Obligations.StepKeepsConnections := by
  intro s t h
  obtain ⟨hports, hdbg | hdbg⟩ := step_pausedAtMost h
  · simp [hports, hdbg]
  · simp [hports, hdbg]

/-! ### Flags (R15, R16) -/

/-- A copy to anything but `flags` leaves `flags` (R140). -/
theorem execCopy_flags (dst src : Operand) (s : State) (hd : dst ≠ .reg .flags) :
    (execCopy dst src s).state.flags = s.flags := by
  rcases execCopy_cases dst src s with ⟨h, -⟩ | ⟨d, b, hres, -, ⟨-, h⟩ | ⟨-, h⟩⟩ <;> rw [h]
  · rfl
  · simp
  · have hne : d ≠ .register .flags := by
      rintro rfl
      exact hd ((resolve_eq_register s dst .flags).mp hres)
    simp [writePlace_flags, hne]

/-- Settles O26, by the instruction's shape: the ones that compute flags are excluded by `writesFlags`. -/
theorem othersKeepFlags : Obligations.OthersKeepFlags := by
  intro i s t h hw hmov
  obtain ⟨R, hR, shape⟩ := exec_shape i s
  obtain rfl : conclude i s R = t := Host.Outcome.next.inj (hR.symm.trans h)
  rw [conclude_flags]
  cases shape with
  | mutate2 | mutate1 | compare => exact absurd (hw.symm.trans ‹writesFlags i = true›) Bool.false_ne_true
  | copy dst src _ _ op0 _ mnem => exact execCopy_flags dst src s (op0 ▸ hmov mnem)
  | jump cond rel =>
    obtain ⟨a, h⟩ := jump_state cond rel s
    rw [h]
  | halt => rfl
  | send port size win => exact (sendOperands_keeps port size win s).1
  | recv port win => exact (recvOperands_keeps port win s).1

/-- An instruction that computes flags and succeeds leaves the byte its operation gives, which is below 16 (R115). -/
theorem Shape.flags_lt {i : Instr} {s : State} {R : Result} (shape : Shape i s R) (hw : writesFlags i = true)
    {t : State} {r : Bool} (hR : R = .success t r) : t.flags.toNat < 16 := by
  cases shape with
  | mutate2 op dst src =>
    rcases exec2_cases op dst src s with ⟨h, -⟩ | ⟨d, b, -, -, ⟨-, h⟩ | ⟨-, h⟩⟩ <;> cases h.symm.trans hR
    exact ‹∀ a b, (op a b).2.toNat < 16› _ _
  | mutate1 op dst =>
    rcases exec1_cases op dst s with ⟨h, -⟩ | ⟨d, -, ⟨-, h⟩ | ⟨-, h⟩⟩ <;> cases h.symm.trans hR
    exact ‹∀ a, (op a).2.toNat < 16› _
  | compare op dst src =>
    rcases execFlagsOnly_cases op dst src s with ⟨h, -⟩ | ⟨d, b, -, -, ⟨-, h⟩ | ⟨-, h⟩⟩ <;> cases h.symm.trans hR
    exact ‹∀ a b, (op a b).2.toNat < 16› _ _
  | copy | jump | send | recv => exact absurd (‹writesFlags i = false›.symm.trans hw) Bool.false_ne_true
  | halt hi =>
    subst hi
    exact absurd hw (by decide)

/-- A copy to `flags` with no breakpoint in its way stores the source's byte whole (R112, R140). -/
theorem execCopy_to_flags {src : Operand} {s : State} {v : Byte} (hv : readOperand s src = some v)
    (hc : readClear s src) : execCopy (.reg .flags) src s = .success { s with flags := v } false := by
  obtain ⟨p, hp, rfl⟩ := (readOperand_eq_some s src v).mp hv
  have hdst : resolve s (.reg .flags) = some (.register .flags) := rfl
  have hclear : breakpointHit s (placeAddresses p) [] = false :=
    (breakpointHit_eq_false s _ _).mpr ⟨(readClear_iff hp).mp hc, by simp⟩
  rcases execCopy_cases (.reg .flags) src s with ⟨-, hn | hn⟩ | ⟨d, b, hd, hb, h⟩
  · cases hdst.symm.trans hn
  · cases hp.symm.trans hn
  · cases hdst.symm.trans hd
    cases hp.symm.trans hb
    rcases h with ⟨hit, -⟩ | ⟨-, h⟩
    · exact absurd (hclear.symm.trans hit) Bool.false_ne_true
    · exact h

/-- Where a jump leaves `pc`: at its target or behind it (R175). -/
theorem conclude_jump_pc (i : Instr) (cond : Byte → Bool) (rel : Byte) (s : State) :
    (conclude i s (jump cond rel s)).pc = if cond s.flags then s.pc + rel else nextPc i s := by
  rcases jump_cases cond rel s with ⟨hc, h⟩ | ⟨hc, h⟩ <;> simp [h, hc, conclude, nextPc]

/-- Every jump is the jump template, on a condition that reads bits 3 to 0 of `flags` only (R175, R191). -/
theorem exec_of_isJump {i : Instr} (hj : isJump i = true) :
    ∃ cond rel, (∀ f g : Byte, f &&& 0x0F = g &&& 0x0F → cond f = cond g) ∧
      ∀ u, exec i u = .next (conclude i u (jump cond rel u)) := by
  obtain ⟨R, -, shape⟩ := exec_shape i State.reset
  cases shape with
  | jump cond rel =>
    rename_i low every
    exact ⟨cond, rel, low, every⟩
  | mutate2 | mutate1 | compare | copy => exact absurd (‹isJump i = false›.symm.trans hj) Bool.false_ne_true
  | halt hi =>
    subst hi
    exact absurd hj (by decide)
  | send _ _ _ form =>
    rcases form with ⟨p, z, rfl, -⟩ | ⟨p, v, rfl, -⟩ | ⟨v, z, rfl, -⟩ | ⟨v, w, rfl, -⟩ <;> cases hj
  | recv _ _ form => rcases form with ⟨p, rfl, -⟩ | ⟨v, rfl, -⟩ <;> cases hj

/-- Settles O27, clause by clause: `Shape.flags_lt`, `execCopy_to_flags` and `exec_of_isJump`. -/
theorem upperFlagBits : Obligations.UpperFlagBits := by
  refine ⟨?computed, ?moved, ?jumps⟩
  case computed =>
    intro i s t h hw hsucc
    obtain ⟨R, hR, shape⟩ := exec_shape i s
    obtain rfl : conclude i s R = t := Host.Outcome.next.inj (hR.symm.trans h)
    obtain ⟨u, r, hRu⟩ := (conclude_outcome_success i s R).mp hsucc
    rw [conclude_flags, hRu]
    exact shape.flags_lt hw hRu
  case moved =>
    intro i src s v form hv hc
    have hexec : exec i s = .next (conclude i s (execCopy (.reg .flags) src s)) := by
      rcases form with ⟨d, w, rfl, hd, rfl⟩ | ⟨d, b, rfl, hd, rfl⟩ <;> rw [hd] <;> rfl
    rw [execCopy_to_flags hv hc] at hexec
    exact ⟨_, hexec, by simp⟩
  case jumps =>
    intro i s t u f hj hf ht hu
    obtain ⟨cond, rel, low, every⟩ := exec_of_isJump hj
    obtain rfl := Host.Outcome.next.inj ((every s).symm.trans ht)
    obtain rfl := Host.Outcome.next.inj ((every { s with flags := f }).symm.trans hu)
    rw [conclude_jump_pc, conclude_jump_pc, low s.flags f hf.symm]
    rfl

/-! ### Independence of the control state (R17, R21, R257) -/

/-- Two states agree on the data: registers, `flags`, memory and `pc`, and on the breakpoints, which decide whether an
access is made. Budget, `complete`, message, connections, debug mode, hooks and environment are free. -/
structure SameData (s s' : State) : Prop where
  regs : s.regs = s'.regs
  flags : s.flags = s'.flags
  mem : s.mem = s'.mem
  pc : s.pc = s'.pc
  breakpoints : s.debugger.breakpoints = s'.debugger.breakpoints

/-- Two results are of the same kind, reposition `pc` alike, and carry states that agree on the data. -/
inductive Result.SameData : Result → Result → Prop
  | success {t t' : State} (b : Bool) (h : Machine.SameData t t') : Result.SameData (.success t b) (.success t' b)
  | stall {t t' : State} (h : Machine.SameData t t') : Result.SameData (.stall t) (.stall t')
  | fail {t t' : State} (h : Machine.SameData t t') : Result.SameData (.fail t) (.fail t')

theorem SameData.resolve_eq {s s' : State} (h : SameData s s') (o : Operand) : resolve s o = resolve s' o := by
  cases o with
  | mem m => cases m <;> simp [resolve, effectiveAddress, h.regs]
  | _ => rfl

theorem SameData.readPlace_eq {s s' : State} (h : SameData s s') (p : Place) : readPlace s p = readPlace s' p := by
  cases p with
  | value v => rfl
  | cell a => simp [readPlace, h.mem]
  | register r => cases r <;> simp [readPlace, readReg, h.regs, h.flags, h.pc]

theorem SameData.breakpointHit_eq {s s' : State} (h : SameData s s') (reads writes : List Byte) :
    breakpointHit s reads writes = breakpointHit s' reads writes := by
  simp [breakpointHit, breakpointAt, h.breakpoints]

theorem setDebugMode_sameData {s s' : State} (h : SameData s s') (m : DebugMode) :
    SameData (setDebugMode m s) (setDebugMode m s') := by
  constructor <;> simp [h.regs, h.flags, h.mem, h.pc, h.breakpoints]

theorem SameData.withFlags {s s' : State} (h : SameData s s') (f : Byte) :
    SameData { s with flags := f } { s' with flags := f } :=
  ⟨h.regs, rfl, h.mem, h.pc, h.breakpoints⟩

theorem SameData.withPc {s s' : State} (h : SameData s s') (a : Byte) :
    SameData { s with pc := a } { s' with pc := a } :=
  ⟨h.regs, h.flags, h.mem, rfl, h.breakpoints⟩

theorem writePlace_sameData {s s' : State} (h : SameData s s') (p : Place) (v : Byte) :
    SameData (writePlace s p v) (writePlace s' p v) := by
  cases p with
  | value w => exact h
  | cell a => exact ⟨h.regs, h.flags, congrArg (Memory.write · a v) h.mem, h.pc, h.breakpoints⟩
  | register r =>
    cases r with
    | gp g => exact ⟨congrArg (Regs.set · g v) h.regs, h.flags, h.mem, h.pc, h.breakpoints⟩
    | flags => exact h.withFlags v
    | pc => exact h.withPc v

/-- How an instruction ends adds to the data only the next `pc`. -/
theorem conclude_sameData {s s' : State} (h : SameData s s') (i : Instr) {R R' : Result} (hR : R.SameData R') :
    SameData (conclude i s R) (conclude i s' R') ∧ (conclude i s R).outcome = (conclude i s' R').outcome := by
  cases hR with
  | success b ht =>
    refine ⟨?_, rfl⟩
    constructor <;> simp [conclude, ht.regs, ht.flags, ht.mem, ht.pc, ht.breakpoints, h.pc]
  | stall ht => exact ⟨⟨ht.regs, ht.flags, ht.mem, ht.pc, ht.breakpoints⟩, rfl⟩
  | fail ht => exact ⟨⟨ht.regs, ht.flags, ht.mem, ht.pc, ht.breakpoints⟩, rfl⟩

theorem exec2_sameData {s s' : State} (h : SameData s s') (op : Byte → Byte → Byte × Byte) (dst src : Operand) :
    (exec2 op dst src s).SameData (exec2 op dst src s') := by
  simp only [exec2, h.resolve_eq, h.readPlace_eq, h.breakpointHit_eq]
  split
  · split
    · exact .stall (setDebugMode_sameData h .pause)
    · exact .success _ ((writePlace_sameData h _ _).withFlags _)
  · exact .fail h

theorem exec1_sameData {s s' : State} (h : SameData s s') (op : Byte → Byte × Byte) (dst : Operand) :
    (exec1 op dst s).SameData (exec1 op dst s') := by
  simp only [exec1, h.resolve_eq, h.readPlace_eq, h.breakpointHit_eq]
  split
  · split
    · exact .stall (setDebugMode_sameData h .pause)
    · exact .success _ ((writePlace_sameData h _ _).withFlags _)
  · exact .fail h

theorem execFlagsOnly_sameData {s s' : State} (h : SameData s s') (op : Byte → Byte → Byte × Byte)
    (dst src : Operand) : (execFlagsOnly op dst src s).SameData (execFlagsOnly op dst src s') := by
  simp only [execFlagsOnly, h.resolve_eq, h.readPlace_eq, h.breakpointHit_eq]
  split
  · split
    · exact .stall (setDebugMode_sameData h .pause)
    · exact .success _ (h.withFlags _)
  · exact .fail h

theorem execCopy_sameData {s s' : State} (h : SameData s s') (dst src : Operand) :
    (execCopy dst src s).SameData (execCopy dst src s') := by
  simp only [execCopy, h.resolve_eq, h.readPlace_eq, h.breakpointHit_eq]
  split
  · split
    · exact .stall (setDebugMode_sameData h .pause)
    · exact .success _ (writePlace_sameData h _ _)
  · exact .fail h

theorem jump_sameData {s s' : State} (h : SameData s s') (cond : Byte → Bool) (rel : Byte) :
    (jump cond rel s).SameData (jump cond rel s') := by
  simp only [jump, h.flags, h.pc]
  split
  · exact .success _ ⟨h.regs, rfl, h.mem, rfl, h.breakpoints⟩
  · exact .success _ h

/-- `hlt` writes the budget, which is no data. -/
theorem halt_sameData {s s' : State} (h : SameData s s') :
    (Result.success { s with cycles := 0 } false).SameData (.success { s' with cycles := 0 } false) :=
  .success _ ⟨h.regs, h.flags, h.mem, h.pc, h.breakpoints⟩

/-- An instruction other than `send` and `recv` is one function of the state, whose result depends on the data alone. The
shape of `exec_shape` is found state by state; two runs need the function. -/
theorem exec_readsDataOnly (i : Instr) (h : isPort i = false) :
    ∃ T : State → Result, (∀ u, exec i u = .next (conclude i u (T u))) ∧
      ∀ s s', SameData s s' → (T s).SameData (T s') := by
  cases i with
  | addRI | addRM | subRI | subRM | mulRI | mulRM | sdivRI | sdivRM | udivRI | udivRM | smodRI | smodRM | umodRI | umodRM
  | shlRI | shlRM | shrRI | shrRM | xorRI | xorRM | orRI | orRM | andRI | andRM =>
    exact ⟨_, fun _ => rfl, fun _ _ h => exec2_sameData h _ _ _⟩
  | not | neg => exact ⟨_, fun _ => rfl, fun _ _ h => exec1_sameData h _ _⟩
  | cmpRI | cmpRM => exact ⟨_, fun _ => rfl, fun _ _ h => execFlagsOnly_sameData h _ _ _⟩
  | movRI | movRM => exact ⟨_, fun _ => rfl, fun _ _ h => execCopy_sameData h _ _⟩
  | jmp | jz | jnz | js | jns | jo | jno | jsl | jsge | jsle | jsg | jul | juge | jule | jug =>
    exact ⟨_, fun _ => rfl, fun _ _ h => jump_sameData h _ _⟩
  | hlt => exact ⟨_, fun _ => rfl, fun _ _ h => halt_sameData h⟩
  | sendRRM | sendRIM | sendIRM | sendIIM | recvRM | recvIM => cases h

/-- Settles O30, by `exec_readsDataOnly`: states that agree on the data are led to states that agree on it. -/
theorem dataIndependentOfControlState : Obligations.DataIndependentOfControlState := by
  intro i s s' t t' hp hregs hflags hmem hpc hbp ht ht'
  obtain ⟨T, hT, reads⟩ := exec_readsDataOnly i hp
  have hs : SameData s s' := ⟨hregs, hflags, hmem, hpc, hbp⟩
  obtain rfl := Host.Outcome.next.inj ((hT s).symm.trans ht)
  obtain rfl := Host.Outcome.next.inj ((hT s').symm.trans ht')
  obtain ⟨hd, ho⟩ := conclude_sameData hs i (reads s s' hs)
  exact ⟨hd.regs, hd.flags, hd.mem, hd.pc, ho⟩

end Sys2Proof.Machine
end

section
/-! PROOFS. The statement about memory (spec/20_memory.md): the next fetch sees a store (O14). -/

namespace Sys2Proof.Machine

open Sys2Proof

/-! ### Memory as the fetch reads it -/

/-- The first of consecutive bytes stands at the address itself, the others from the next address on (R40, R41). -/
theorem Memory.bytes_succ (m : Memory) (a : Byte) (n : Nat) : m.bytes a (n + 1) = m.read a :: m.bytes (a + 1) n := by
  have head : a + BitVec.ofNat 8 0 = a := BitVec.add_zero a
  have shift (k : Nat) : a + BitVec.ofNat 8 (k + 1) = a + 1 + BitVec.ofNat 8 k := by
    rw [Nat.add_comm, BitVec.ofNat_add, ← BitVec.add_assoc]
    rfl
  rw [Memory.bytes, List.range_succ_eq_map, List.map_cons, List.map_map, head]
  exact congrArg _ (List.map_congr_left fun k _ => congrArg m.read (shift k))

/-- `hlt` has no operands: its opcode byte decodes whatever bytes follow it (R70, R192). -/
theorem decode_hlt_cons (bs : List Byte) : decode (0x80 :: bs) = some .hlt := rfl

theorem fetch_eq_hlt {s : State} (h : s.mem.read s.pc = 0x80) : fetch s = some .hlt := by
  rw [fetch, maxLength, Memory.bytes_succ, h, decode_hlt_cons]

/-! ### A copy that no breakpoint stops -/

theorem writeClear_iff {s : State} {o : Operand} {p : Place} (h : resolve s o = some p) :
    writeClear s o ↔ ∀ a ∈ placeAddresses p, (breakpointAt s a).write = false := by
  simp only [writeClear, mem_placeAddresses h]

/-- A copy between operands that resolve, with no breakpoint in its way, succeeds (R114, R140). -/
theorem execCopy_of_clear {dst src : Operand} {s : State} {d b : Place} (hd : resolve s dst = some d)
    (hb : resolve s src = some b) (hw : writeClear s dst) (hr : readClear s src) :
    execCopy dst src s = .success (writePlace s d (readPlace s b)) (repositions d) := by
  have hclear : breakpointHit s (placeAddresses b) (placeAddresses d) = false :=
    (breakpointHit_eq_false s _ _).mpr ⟨(readClear_iff hb).mp hr, (writeClear_iff hd).mp hw⟩
  simp [execCopy, hd, hb, hclear]

/-- Reading a register accesses no address, so no breakpoint stands in its way (R263). -/
theorem readClear_reg (s : State) (r : Reg) : readClear s (.reg r) := by
  intro a ha
  cases ha

/-- A register stored to memory, no write breakpoint at the address, succeeds, writes one byte and goes on behind the
instruction (R104, R140). -/
theorem exec_store_register (s : State) (d : MemOp) (r : Reg) (hw : writeClear s (.mem d)) :
    ∃ t, exec (.movRM (.mem d) (.reg (.reg r))) s = .next t ∧ t.outcome = some .success ∧
      t.mem = s.mem.write (effectiveAddress s d) (readReg s r) ∧
      t.pc = nextPc (.movRM (.mem d) (.reg (.reg r))) s := by
  have hcopy : execCopy (.mem d) (.reg r) s =
      .success (writePlace s (.cell (effectiveAddress s d)) (readReg s r)) false :=
    execCopy_of_clear rfl rfl hw (readClear_reg s r)
  refine ⟨conclude _ s (execCopy (.mem d) (.reg r) s), rfl, ?_⟩
  rw [hcopy]
  simp [conclude, writePlace, nextPc]

/-- Settles O14: `pc` stands at the address the store wrote, so the fetch reads the byte of `hlt` there (R52). -/
theorem storeSeenByNextFetch : Obligations.StoreSeenByNextFetch := by
  intro s d r hea hval hclear
  obtain ⟨t, hexec, hout, hmem, hpc⟩ := exec_store_register s d (.gp r) hclear
  have hbyte : t.mem.read t.pc = 0x80 := by
    rw [hmem, hpc, hea, Memory.read_write_self]
    exact hval
  exact ⟨t, hexec, hout, fetch_eq_hlt hbyte⟩

end Sys2Proof.Machine
end

section
/-! PROOFS. The statements about the encoding (spec/30_encoding.md): the round trip of encoder and decoder, the padding,
the opcode field, the unassigned and reserved codes, the row selection and the displacement of a jump (O1 to O5, O7, O8,
O16). -/

namespace Sys2Proof

/-! ### Bytes and their bits (R45, R61) -/

theorem bytesBits_cons (b : Byte) (bs : List Byte) : bytesBits (b :: bs) = byteBits b ++ bytesBits bs := rfl

theorem bytesBits_append (as bs : List Byte) : bytesBits (as ++ bs) = bytesBits as ++ bytesBits bs :=
  List.flatMap_append

theorem byteBits_ofNat (n : Nat) : byteBits (BitVec.ofNat 8 n) = natBits 8 n := by
  simp only [byteBits, BitVec.getLsbD_ofNat]
  rfl

theorem byteBits_eq_natBits (b : Byte) : byteBits b = natBits 8 b.toNat := by
  rw [← byteBits_ofNat, BitVec.ofNat_toNat, BitVec.setWidth_eq]

/-- `natBits` reads the low bits only. -/
theorem natBits_congr {w m n : Nat} (h : ∀ j < w, m.testBit j = n.testBit j) : natBits w m = natBits w n := by
  induction w with
  | zero => rfl
  | succ w ih => rw [natBits, natBits, h w w.lt_succ_self, ih fun j hj => h j (Nat.lt_succ_of_lt hj)]

theorem bitsNat_cons (b : Bool) (bs : Bits) : bitsNat (b :: bs) = 2 ^ bs.length * b.toNat + bitsNat bs := by
  have h := bitsNat_append [b] bs
  rw [Nat.mul_comm] at h
  simpa [bitsNat] using h

theorem bitsNat_lt (bs : Bits) : bitsNat bs < 2 ^ bs.length := by
  induction bs with
  | nil => decide
  | cons b bs ih =>
    rw [bitsNat_cons, List.length_cons, Nat.pow_succ]
    cases b
    · simp
      omega
    · simp
      omega

/-- A bit string is the digits of the number it stands for. -/
theorem natBits_bitsNat (bs : Bits) : natBits bs.length (bitsNat bs) = bs := by
  induction bs with
  | nil => rfl
  | cons b bs ih =>
    have hbit := Nat.testBit_two_pow_mul_add b.toNat (bitsNat_lt bs)
    rw [List.length_cons, natBits, bitsNat_cons]
    congr 1
    · rw [hbit, if_neg (lt_irrefl _), Nat.sub_self]
      cases b <;> rfl
    · exact (natBits_congr fun j hj => (hbit j).trans (if_pos hj)).trans ih

/-- A byte taken from the front of the stream holds its next 8 bits, 0 past its end (R61). -/
theorem byteBits_frontBits (bs : Bits) :
    byteBits (BitVec.ofNat 8 (frontBits 8 bs)) = (bs ++ List.replicate 8 false).take 8 := by
  have hdigits := natBits_bitsNat ((bs ++ List.replicate 8 false).take 8)
  rwa [List.length_take_of_le (by simp), ← frontBits, ← byteBits_ofNat] at hdigits

/-- Bytes that have room for the bits hold them, followed by zero bits (R71, R73). -/
theorem bytesBits_packBytes (n : Nat) (bs : Bits) (h : bs.length ≤ 8 * n) :
    bytesBits (packBytes n bs) = bs ++ List.replicate (8 * n - bs.length) false := by
  induction n generalizing bs with
  | zero =>
    obtain rfl : bs = [] := List.eq_nil_of_length_eq_zero (by omega)
    rfl
  | succ n ih =>
    rw [packBytes, bytesBits_cons, byteBits_frontBits, ih _ (by rw [List.length_drop]; omega), List.length_drop]
    rcases Nat.le_total 8 bs.length with hlong | hshort
    · have hrest : 8 * n - (bs.length - 8) = 8 * (n + 1) - bs.length := by omega
      rw [List.take_append_of_le_length hlong, ← List.append_assoc, List.take_append_drop, hrest]
    · have hrest : 8 * n - (bs.length - 8) = 8 * n := by omega
      have hpad : 8 * (n + 1) - bs.length = (8 - bs.length) + 8 * n := by omega
      rw [List.take_append, List.take_of_length_le hshort, List.drop_of_length_le hshort, List.take_replicate,
        Nat.min_eq_left (Nat.sub_le _ _), hrest, hpad, List.replicate_add, List.append_assoc, List.nil_append]

/-! ### Fields read back (R63 to R70) -/

/-- A memory field is read back, and the stream goes on behind it (R67). -/
theorem decodeMem_bits (m : MemOp) (rest : Bits) : decodeMem (m.bits ++ rest) = (m, rest) := by
  cases m with
  | abs o => simp [decodeMem, MemOp.bits, frontBits_natBits 2 0]
  | ind a => simp [decodeMem, MemOp.bits, frontBits_natBits 2 1]
  | off o a =>
    have hskip (l : Bits) : l.drop 10 = (l.drop 8).drop 2 := by rw [List.drop_drop]
    simp [decodeMem, MemOp.bits, frontBits_natBits 2 2, hskip]
  | rr a b =>
    have hskip (l : Bits) : l.drop 4 = (l.drop 2).drop 2 := by rw [List.drop_drop]
    simp [decodeMem, MemOp.bits, frontBits_natBits 2 3, hskip]

/-- An operand field is read back, and the stream goes on behind it (R63, R69). -/
theorem decodeArg_bits (a : Arg) (rest : Bits) : decodeArg a.kind (a.bits ++ rest) = (a, rest) := by
  cases a with
  | I v => simp [decodeArg, Arg.kind, Arg.bits]
  | Rel v => simp [decodeArg, Arg.kind, Arg.bits]
  | R r => simp [decodeArg, Arg.kind, Arg.bits]
  | M m => simp [decodeArg, Arg.kind, Arg.bits, decodeMem_bits]
  | RM o =>
    cases o with
    | reg r =>
      have hskip (l : Bits) : l.drop 4 = (l.drop 1).drop 3 := by rw [List.drop_drop]
      simp [decodeArg, Arg.kind, Arg.bits, frontBits_natBits 1 0, hskip, -List.drop_one]
    | mem m => simp [decodeArg, Arg.kind, Arg.bits, frontBits_natBits 1 1, decodeMem_bits, -List.drop_one]

/-- Operand fields in order are read back. -/
theorem decodeArgs_bits (as : List Arg) (rest : Bits) :
    decodeArgs (as.map Arg.kind) (as.flatMap Arg.bits ++ rest) = as := by
  induction as with
  | nil => rfl
  | cons a as ih =>
    rw [List.map_cons, List.flatMap_cons, List.append_assoc, decodeArgs, decodeArg_bits, ih]

/-! ### The opcode table (R75) -/

/-- The row of an instruction's opcode has the kinds of its operands. -/
theorem opRow_opcode (i : Instr) : opRow i.opcode = some ⟨i.mnemonic, i.args.map Arg.kind⟩ := by
  cases i <;> rfl

/-- An instruction is built back from its opcode and its operands. -/
theorem buildInstr_opcode (i : Instr) : buildInstr i.opcode i.args = some i := by
  cases i <;> rfl

/-- A slot is unassigned exactly outside 2 to 53 (R76). -/
theorem opRow_eq_none_iff (n : Nat) : opRow n = none ↔ n ≤ 1 ∨ 54 ≤ n := by
  constructor
  · intro h
    by_contra hrange
    obtain ⟨hlow, hhigh⟩ : 2 ≤ n ∧ n ≤ 53 := by omega
    interval_cases n <;> cases h
  · intro hrange
    unfold opRow
    split
    case h_53 => rfl
    all_goals omega

theorem Instr.opcode_lt (i : Instr) : i.opcode < 2 ^ 6 := by
  have h := mt (opRow_eq_none_iff i.opcode).mpr (by simp [opRow_opcode])
  omega

/-- A field of kind `RM` is read as one, whichever its tag bit says (R69). -/
theorem decodeArg_RM_fst (bs : Bits) :
    (decodeArg .RM bs).1 = .RM (if frontBits 1 bs = 0 then .reg (decodeReg (frontBits 3 (bs.drop 1)))
      else .mem (decodeMem (bs.drop 1)).1) := by
  rw [decodeArg]
  split <;> rfl

/-- Every row builds an instruction of its own opcode from the fields that the decoder reads for it: they have the row's
kinds (R70, R75). -/
theorem buildInstr_decodeArgs {n : Nat} {row : OpRow} (h : opRow n = some row) (bs : Bits) :
    ∃ i, buildInstr n (decodeArgs row.kinds bs) = some i ∧ i.opcode = n := by
  unfold opRow at h
  split at h <;> cases h
  all_goals
    simp only [decodeArgs, decodeArg_RM_fst]
    exact ⟨_, rfl, rfl⟩

/-! ### Decoding (R70, R73) -/

/-- The opcode field of the bits the encoder writes (R62). -/
theorem opcodeField_encodeBits (i : Instr) (rest : Bits) : opcodeField (encodeBits i ++ rest) = i.opcode := by
  rw [opcodeField, encodeBits, List.append_assoc, frontBits_natBits, Nat.mod_eq_of_lt i.opcode_lt]

/-- The round trip on bits: whatever follows the fields, the instruction is read back (R71, R73). -/
theorem decodeBits_encodeBits (i : Instr) (rest : Bits) : decodeBits (encodeBits i ++ rest) = some i := by
  have hfields : (encodeBits i ++ rest).drop 6 = i.args.flatMap Arg.bits ++ rest := by
    rw [encodeBits, List.append_assoc, drop_natBits]
  simp only [decodeBits, opcodeField_encodeBits, opRow_opcode, hfields, decodeArgs_bits, buildInstr_opcode]

/-- Decoding answers nothing where the opcode field is an unassigned slot, else an instruction of that opcode. -/
theorem decodeBits_cases (bs : Bits) :
    (opRow (opcodeField bs) = none ∧ decodeBits bs = none) ∨
      (opRow (opcodeField bs) ≠ none ∧ ∃ i, decodeBits bs = some i ∧ i.opcode = opcodeField bs) := by
  unfold decodeBits
  cases h : opRow (opcodeField bs) with
  | none => exact .inl ⟨rfl, rfl⟩
  | some row => exact .inr ⟨Option.some_ne_none row, buildInstr_decodeArgs h (bs.drop 6)⟩

/-- The opcode field is bits 7 to 2 of the first byte (R62). -/
theorem opcodeField_cons (b : Byte) (rest : List Byte) : opcodeField (bytesBits (b :: rest)) = b.toNat / 4 := by
  have hsplit : byteBits b = natBits 6 (b.toNat / 4) ++ natBits 2 b.toNat := by
    rw [byteBits_eq_natBits]
    simp [natBits, Nat.testBit_div_two_pow (n := 2)]
  rw [opcodeField, bytesBits_cons, hsplit, List.append_assoc, frontBits_natBits, Nat.mod_eq_of_lt (by omega)]

/-! ### Encoding (R71 to R73) -/

/-- The bits of the encoder's bytes: the fields, then zero bits up to a whole byte (R73). -/
theorem bytesBits_encode (i : Instr) :
    bytesBits (encode i) = encodeBits i ++ List.replicate (8 * i.length - i.bitLength) false := by
  have hroom : (encodeBits i).length ≤ 8 * i.length := by
    rw [encodeBits_length, Instr.length]
    omega
  rw [encode, bytesBits_packBytes _ _ hroom, encodeBits_length]

/-- Bytes that begin with an instruction's encoding decode to it. -/
theorem decode_encode_append (i : Instr) (rest : List Byte) : decode (encode i ++ rest) = some i := by
  rw [decode, bytesBits_append, bytesBits_encode, List.append_assoc, decodeBits_encodeBits]

/-- Settles O1: `bytesBits_packBytes` for the layout, `decodeBits_encodeBits` for the round trip. -/
theorem decodeInvertsEncode : Obligations.DecodeInvertsEncode :=
  fun i rest => ⟨bytesBits_encode i, decode_encode_append i rest⟩

/-- Settles O2: the decoder's answer is decided by the bits of the fields, which the padding follows. -/
theorem paddingIsZeroAndIgnored : Obligations.PaddingIsZeroAndIgnored := by
  intro i
  refine ⟨?short, ?zero, ?ignored⟩
  case short =>
    rw [Instr.length]
    omega
  case zero =>
    intro b hb
    rw [bytesBits_encode, List.drop_left' (encodeBits_length i)] at hb
    exact List.eq_of_mem_replicate hb
  case ignored =>
    intro bytes h
    rw [decode, ← List.take_append_drop i.bitLength (bytesBits bytes), h, decodeBits_encodeBits]

/-- Settles O3: both directions compare the opcode field of the bits with the first byte's upper six. -/
theorem firstByteHoldsOpcode : Obligations.FirstByteHoldsOpcode := by
  refine ⟨?encoded, ?decoded⟩
  case encoded =>
    intro i
    obtain ⟨-, hlen, hpos, -⟩ := Laws.Length.all i
    obtain ⟨b, rest, hcons⟩ := List.exists_cons_of_length_pos (hlen ▸ hpos)
    refine ⟨b, rest, hcons, ?_⟩
    rw [← opcodeField_cons b rest, ← hcons, bytesBits_encode, opcodeField_encodeBits]
  case decoded =>
    intro b rest i h
    rw [← opcodeField_cons b rest]
    rcases decodeBits_cases (bytesBits (b :: rest)) with ⟨-, hnone⟩ | ⟨-, j, hsome, hop⟩
    · cases h.symm.trans hnone
    · cases h.symm.trans hsome
      exact hop

/-- Bytes decode to nothing exactly where the first one's opcode is an unassigned slot (R76). -/
theorem decode_cons_eq_none_iff (b : Byte) (rest : List Byte) :
    decode (b :: rest) = none ↔ b.toNat / 4 ≤ 1 ∨ 54 ≤ b.toNat / 4 := by
  rw [← opRow_eq_none_iff, ← opcodeField_cons b rest, decode]
  rcases decodeBits_cases (bytesBits (b :: rest)) with ⟨hrow, hnone⟩ | ⟨hrow, i, hsome, -⟩
  · simp [hrow, hnone]
  · simp [hrow, hsome]

/-! ### Row selection (R74) -/

theorem rowMatches_iff (mnemonic : String) (os : List Operand) (n : Nat) :
    rowMatches mnemonic os n = true ↔
      ∃ row, opRow n = some row ∧ row.mnemonic = mnemonic ∧ admits row.kinds os = true := by
  unfold rowMatches
  cases opRow n <;> simp

/-- One written operand of each sort: a kind admits all of a sort or none. -/
def sampleOperands : List Operand := [.imm 0, .reg .pc, .mem (.abs 0)]

/-- Some written operand is admitted by both kinds. -/
def Kind.meets (k l : Kind) : Bool := sampleOperands.any fun o => o.admittedBy k && o.admittedBy l

theorem Kind.meets_of_admittedBy {o : Operand} {k l : Kind} (hk : o.admittedBy k = true) (hl : o.admittedBy l = true) :
    k.meets l = true := by
  have hboth : (o.admittedBy k && o.admittedBy l) = true := by rw [hk, hl]; rfl
  refine List.any_eq_true.mpr ?_
  cases o with
  | na | naInvalid => cases hk
  | imm | rel => exact ⟨.imm 0, by simp [sampleOperands], hboth⟩
  | reg => exact ⟨.reg .pc, by simp [sampleOperands], hboth⟩
  | mem => exact ⟨.mem (.abs 0), by simp [sampleOperands], hboth⟩

/-- Some operand list is admitted by both kind lists. -/
def kindsMeet : List Kind → List Kind → Bool
  | [], [] => true
  | k :: ks, l :: ls => k.meets l && kindsMeet ks ls
  | _, _ => false

theorem admits_nil {ks : List Kind} (h : admits ks [] = true) : ks = [] := by
  cases ks with
  | nil => rfl
  | cons k ks => cases h

theorem admits_cons {ks : List Kind} {o : Operand} {os : List Operand} (h : admits ks (o :: os) = true) :
    ∃ k ls, ks = k :: ls ∧ o.admittedBy k = true ∧ admits ls os = true := by
  cases ks with
  | nil => cases h
  | cons k ks => exact ⟨k, ks, rfl, Bool.and_eq_true_iff.mp h⟩

theorem kindsMeet_of_admits {ks ls : List Kind} {os : List Operand} (hk : admits ks os = true)
    (hl : admits ls os = true) : kindsMeet ks ls = true := by
  induction os generalizing ks ls with
  | nil =>
    obtain rfl := admits_nil hk
    obtain rfl := admits_nil hl
    rfl
  | cons o os ih =>
    obtain ⟨k, ks, rfl, hok, hks⟩ := admits_cons hk
    obtain ⟨l, ls, rfl, hol, hls⟩ := admits_cons hl
    exact Bool.and_eq_true_iff.mpr ⟨Kind.meets_of_admittedBy hok hol, ih hks hls⟩

/-- Both slots hold rows of one mnemonic, and some operand list fits both. -/
def rowsMeet (m n : Nat) : Bool :=
  match opRow m, opRow n with
  | some r, some q => kindsMeet r.kinds q.kinds && r.mnemonic == q.mnemonic
  | _, _ => false

/-- The table, checked row against row: no row meets an earlier one (R74, R75). -/
theorem rowsMeet_eq_false : ∀ n < 54, ∀ m < n, rowsMeet m n = false := by decide

/-- A row that matches is not later than another that matches. -/
theorem not_lt_of_rowMatches {mnemonic : String} {os : List Operand} {m n : Nat} (hm : rowMatches mnemonic os m = true)
    (hn : rowMatches mnemonic os n = true) : ¬ m < n := by
  intro hlt
  obtain ⟨r, hr, rfl, hadm⟩ := (rowMatches_iff _ _ _).mp hm
  obtain ⟨q, hq, hname, hadq⟩ := (rowMatches_iff _ _ _).mp hn
  have hlast : n < 54 := by
    have := mt (opRow_eq_none_iff n).mpr (by simp [hq])
    omega
  have hmeet : rowsMeet m n = true := by
    simp only [rowsMeet, hr, hq, kindsMeet_of_admits hadm hadq, hname, beq_self_eq_true, Bool.and_self]
  exact Bool.false_ne_true ((rowsMeet_eq_false n hlast m hlt).symm.trans hmeet)

theorem rowMatches_unique {mnemonic : String} {os : List Operand} {m n : Nat} (hm : rowMatches mnemonic os m = true)
    (hn : rowMatches mnemonic os n = true) : m = n :=
  le_antisymm (not_lt.mp (not_lt_of_rowMatches hn hm)) (not_lt.mp (not_lt_of_rowMatches hm hn))

theorem wellFormed_iff (i : Instr) : i.wellFormed = true ↔ ∀ a ∈ i.args, a.operand ≠ .naInvalid := by
  cases i <;> simp [Instr.wellFormed, Instr.args, Arg.operand, RegOp.valid_iff, RMOp.valid_iff]

/-- A field that holds no reserved code is admitted by its own kind. -/
theorem Arg.operand_admittedBy_kind {a : Arg} (h : a.operand ≠ .naInvalid) : a.operand.admittedBy a.kind = true := by
  cases a with
  | I | Rel | M => rfl
  | R r =>
    cases r with
    | reg => rfl
    | naInvalid => exact absurd rfl h
  | RM o =>
    rcases o with (_ | _) | _
    · rfl
    · exact absurd rfl h
    · rfl

theorem admits_operands {as : List Arg} (h : ∀ a ∈ as, a.operand ≠ .naInvalid) :
    admits (as.map Arg.kind) (as.map Arg.operand) = true := by
  induction as with
  | nil => rfl
  | cons a as ih =>
    obtain ⟨ha, has⟩ := List.forall_mem_cons.mp h
    exact Bool.and_eq_true_iff.mpr ⟨Arg.operand_admittedBy_kind ha, ih has⟩

/-- The row of a well-formed instruction matches its mnemonic and its operands. -/
theorem rowMatches_opcode {i : Instr} (h : i.wellFormed = true) :
    rowMatches i.mnemonic (i.args.map Arg.operand) i.opcode = true :=
  (rowMatches_iff _ _ _).mpr ⟨_, opRow_opcode i, rfl, admits_operands ((wellFormed_iff i).mp h)⟩

/-- Settles O7: the scan meets the instruction's own row, and by uniqueness no earlier one. -/
theorem rowSelectionFindsOpcode : Obligations.RowSelectionFindsOpcode := by
  refine ⟨?selects, fun mnemonic os m n => rowMatches_unique⟩
  case selects =>
    intro i hi
    have hown := rowMatches_opcode hi
    refine List.find?_range_eq_some.mpr ⟨hown, List.mem_range.mpr i.opcode_lt, ?_⟩
    intro j hj
    rw [Bool.not_eq_true', Bool.eq_false_iff]
    exact fun hother => not_lt_of_rowMatches hother hown hj

end Sys2Proof

namespace Sys2Proof.Machine

open Sys2Proof

/-! ### The step on what the fetch decodes (R101, R102) -/

theorem not_paused {s : State} (h : s.debugger.mode = .continue) : s.debugger.mode ≠ .pause := by simp [h]

/-- Where the fetch decodes nothing, the step stops (R101). -/
theorem step_of_fetch_none {s : State} (hm : s.debugger.mode = .continue) (hf : fetch s = none) :
    step s = .next (stopInvalid s) := by
  rw [step, if_neg (not_paused hm), hf]

/-- Where the budget pays the fetched instruction, the step executes it on the charged state (R102). -/
theorem step_of_fetch_some {s : State} {i : Instr} (hm : s.debugger.mode = .continue) (hf : fetch s = some i)
    (hc : cost i ≤ s.cycles) : step s = exec i (charge (cost i) s) := by
  rw [step, if_neg (not_paused hm), hf]
  exact if_neg (Nat.not_lt.mpr hc)

/-- A step that does not end in success is the whole of `Run` (R105). -/
theorem run_of_step_stop {s t : State} (h : step s = .next t) (ht : t.outcome ≠ some .success) : run s = t := by
  rw [run, runLoop_succ _ _ _ h, if_neg ht]

/-- Settles O4: `fetch` reads the byte at `pc` first, so `decode_cons_eq_none_iff` decides it. -/
theorem unassignedSlotsStop : Obligations.UnassignedSlotsStop := by
  intro b rest
  refine ⟨decode_cons_eq_none_iff b rest, ?_⟩
  intro s hm hb hslot
  have hfetch : fetch s = none := by
    rw [fetch, maxLength, Memory.bytes_succ, hb, decode_cons_eq_none_iff]
    exact hslot
  have hstep : step s = .next (stopInvalid s) := step_of_fetch_none hm hfetch
  exact ⟨hstep, run_of_step_stop hstep (by simp)⟩

/-! ### Invalid operands (R77, R113) -/

/-- An invalid operand resolves to nothing. -/
theorem ne_naInvalid_of_resolve {s : State} {o : Operand} {p : Place} (h : resolve s o = some p) : o ≠ .naInvalid := by
  rintro rfl
  cases h

theorem ne_naInvalid_of_readOperand {s : State} {o : Operand} {v : Byte} (h : readOperand s o = some v) :
    o ≠ .naInvalid := by
  rintro rfl
  cases h

/-- An instruction with an invalid operand fails before it has done anything: every other way for its template to end has
all operands resolved. -/
theorem Shape.fail_of_not_wellFormed {i : Instr} {s : State} {R : Result} (h : Shape i s R)
    (hi : i.wellFormed ≠ true) : R = .fail s := by
  cases h with
  | mutate2 op dst src =>
    rename_i wf _ _ _ _ _
    rcases exec2_cases op dst src s with ⟨hfail, -⟩ | ⟨d, b, hd, hb, -⟩
    · exact hfail
    · exact absurd (wf.mpr ⟨ne_naInvalid_of_resolve hd, ne_naInvalid_of_resolve hb⟩) hi
  | mutate1 op dst =>
    rename_i wf _ _ _ _
    rcases exec1_cases op dst s with ⟨hfail, -⟩ | ⟨d, hd, -⟩
    · exact hfail
    · exact absurd (wf.mpr (ne_naInvalid_of_resolve hd)) hi
  | compare op dst src =>
    rename_i wf _ _ _ _ _
    rcases execFlagsOnly_cases op dst src s with ⟨hfail, -⟩ | ⟨d, b, hd, hb, -⟩
    · exact hfail
    · exact absurd (wf.mpr ⟨ne_naInvalid_of_resolve hd, ne_naInvalid_of_resolve hb⟩) hi
  | copy dst src =>
    rename_i wf _ _ _ _
    rcases execCopy_cases dst src s with ⟨hfail, -⟩ | ⟨d, b, hd, hb, -⟩
    · exact hfail
    · exact absurd (wf.mpr ⟨ne_naInvalid_of_resolve hd, ne_naInvalid_of_resolve hb⟩) hi
  | jump =>
    rename_i wf _ _ _ _ _
    exact absurd wf hi
  | halt hhlt => exact absurd (hhlt ▸ rfl) hi
  | send port size win =>
    rename_i wf _ _ _
    rcases sendOperands_cases port size win s with hfail | ⟨p, z, hp, hz, -⟩
    · exact hfail
    · exact absurd (wf.mpr ⟨ne_naInvalid_of_readOperand hp, ne_naInvalid_of_readOperand hz⟩) hi
  | recv port win =>
    rename_i wf _ _
    rcases recvOperands_cases port win s with hfail | ⟨p, hp, -⟩
    · exact hfail
    · exact absurd (wf.mpr (ne_naInvalid_of_readOperand hp)) hi

/-- Executing an instruction with an invalid operand sets `complete` and changes nothing else (R77, R103). -/
theorem exec_of_not_wellFormed {i : Instr} (hi : i.wellFormed = false) (s : State) :
    exec i s = .next (concludeFail s) := by
  obtain ⟨R, hexec, shape⟩ := exec_shape i s
  rw [hexec, shape.fail_of_not_wellFormed (Bool.eq_false_iff.mp hi)]
  rfl

/-- Settles O5: the codes are those of `decodeReg`, and the charged instruction fails by `exec_of_not_wellFormed`. -/
theorem reservedRegisterCodesFail : Obligations.ReservedRegisterCodesFail := by
  refine ⟨⟨rfl, rfl, rfl, rfl, rfl, rfl, rfl, rfl⟩, ?_⟩
  intro s i hm hf hi hc
  rw [step_of_fetch_some hm hf hc, exec_of_not_wellFormed hi]
  rfl

/-! ### An encoding in memory (R61, R101) -/

/-- Consecutive bytes begin with those that stand there one by one. -/
theorem Memory.bytes_eq_append {m : Memory} {a : Byte} {vs : List Byte} {n : Nat} (hn : vs.length ≤ n)
    (h : ∀ k (hk : k < vs.length), m.read (a + BitVec.ofNat 8 k) = vs[k]) : ∃ rest, m.bytes a n = vs ++ rest := by
  have htake : (m.bytes a n).take vs.length = vs := by
    refine List.ext_getElem (by simpa using hn) fun k _ hk => ?_
    rw [List.getElem_take, Memory.bytes_getElem, h k hk]
  refine ⟨(m.bytes a n).drop vs.length, ?_⟩
  calc m.bytes a n = (m.bytes a n).take vs.length ++ (m.bytes a n).drop vs.length := (List.take_append_drop _ _).symm
    _ = vs ++ (m.bytes a n).drop vs.length := by rw [htake]

/-- Settles O16: the encoding has at most the bytes a fetch reads, and decodes whatever follows it. -/
theorem stepRunsEncoded : Obligations.StepRunsEncoded := by
  intro s i hm hbytes hc
  obtain ⟨-, hlen, -, hmax⟩ := Laws.Length.all i
  obtain ⟨rest, hrest⟩ := Memory.bytes_eq_append (hlen.trans_le hmax) hbytes
  have hfetch : fetch s = some i := by
    rw [fetch, maxLength, hrest, decode_encode_append]
  exact step_of_fetch_some hm hfetch hc

/-! ### The displacement of a jump (R83) -/

/-- Settles O8: `jmp` takes every jump, and the displacement is the distance it adds to `pc` (R65, R176). -/
theorem branchDisplacementReachesTarget : Obligations.BranchDisplacementReachesTarget := by
  refine ⟨rfl, fun target s => ⟨_, rfl, ?_⟩⟩
  rw [conclude_jump_pc, condJmp, if_pos rfl, branchDisplacement, BitVec.add_comm, BitVec.sub_add_cancel]

end Sys2Proof.Machine
end

section
/-! PROOFS. The statements about execution and operands (spec/40_execution_and_operands.md): the effective addresses, how
a step begins, what a successful step pays and that `Run` returns, invalid operands, and where `pc` goes by the
control-flow class (O9, O15, O18, O19, O23, O28, O29). -/

namespace Sys2Proof.Machine

open Sys2Proof

/-! ### Operands (R110, R113) -/

/-- Settles O9: each mode is its equation in `effectiveAddress`, and a sum of bytes is the sum mod 256. -/
theorem effectiveAddressesWrap : Obligations.EffectiveAddressesWrap := fun _ _ _ _ =>
  ⟨rfl, rfl, BitVec.toNat_add _ _, BitVec.toNat_add _ _⟩

/-- Settles O23: `exec_of_not_wellFormed`, with `concludeFail` written out. -/
theorem invalidOperandFails : Obligations.InvalidOperandFails := fun _ s hi => exec_of_not_wellFormed hi s

/-! ### How a step begins (R101, R102, R264) -/

theorem step_of_paused {s : State} (hm : s.debugger.mode = .pause) : step s = .next (stopPaused s) := by
  rw [step, if_pos hm]

/-- Where the budget does not pay the fetched instruction, the step stops (R102). -/
theorem step_of_cost_gt {s : State} {i : Instr} (hm : s.debugger.mode = .continue) (hf : fetch s = some i)
    (hc : s.cycles < cost i) : step s = .next (stopBudget s) := by
  rw [step, if_neg (not_paused hm), hf]
  exact if_pos hc

/-- Settles O15: a lemma for each of the four ways a step begins; `fetch` is the decoder on the bytes at `pc`. -/
theorem stepRunsDecoded : Obligations.StepRunsDecoded := fun _ =>
  ⟨step_of_paused, step_of_fetch_none, fun i hm hf =>
    ⟨cost_eq_length i, one_le_cost i, step_of_fetch_some hm hf, step_of_cost_gt hm hf⟩⟩

/-! ### What an instruction pays (R102, R105) -/

/-- How a port operation ends, as far as `pc` and the budget are concerned: it fails or stalls with both as they were, or
succeeds, going on, with at most the budget it had (R201, R202, R207). -/
inductive PortEnds (s : State) : Result → Prop
  | fails : PortEnds s (.fail s)
  | stalls {t : State} (pc : t.pc = s.pc) (cycles : t.cycles = s.cycles) : PortEnds s (.stall t)
  | succeeds {t : State} (cycles : t.cycles ≤ s.cycles) : PortEnds s (.success t false)

theorem PortEnds.cycles_le {s : State} {R : Result} (h : PortEnds s R) : R.state.cycles ≤ s.cycles := by
  cases h with
  | fails => exact le_rfl
  | stalls _ cycles => exact cycles.le
  | succeeds cycles => exact cycles

theorem sendOperands_ends (port size : Operand) (win : MemOp) (s : State) :
    PortEnds s (sendOperands port size win s) := by
  rcases sendOperands_cases port size win s with h | ⟨p, z, -, -, h⟩ <;> rw [h]
  · exact .fails
  · rcases sendWindow_cases p z (effectiveAddress s win) s with ⟨-, h⟩ | ⟨r, -, -, ⟨w, q, -, h⟩ | ⟨-, h⟩⟩ <;> rw [h]
    · exact .stalls (by simp) (by simp)
    · exact .succeeds ((finishPort_cycles_le w _).trans (by simp))
    · exact .stalls (by simp) (by simp)

theorem recvOperands_ends (port : Operand) (win : MemOp) (s : State) : PortEnds s (recvOperands port win s) := by
  rcases recvOperands_cases port win s with h | ⟨p, -, h⟩ <;> rw [h]
  · exact .fails
  · obtain ⟨r, -, ⟨w, q, -, ⟨-, h⟩ | ⟨-, h⟩⟩ | ⟨-, h⟩⟩ := recvWindow_cases p (effectiveAddress s win) s <;> rw [h]
    · exact .stalls (by simp) (by simp)
    · exact .succeeds ((finishPort_cycles_le w _).trans (by simp))
    · exact .stalls (by simp) (by simp)

/-- No instruction adds to the budget, and only `hlt`, `send` and `recv` take from it. (The refund of a stall is no part of
the template's result; `concludeStall` makes it.) -/
theorem Shape.cycles {i : Instr} {s : State} {R : Result} (h : Shape i s R) :
    R.state.cycles ≤ s.cycles ∧ (i ≠ .hlt → isPort i = false → R.state.cycles = s.cycles) := by
  cases h with
  | mutate2 op dst src =>
    rcases exec2_cases op dst src s with ⟨h, -⟩ | ⟨d, b, -, -, ⟨-, h⟩ | ⟨-, h⟩⟩ <;> simp [h]
  | mutate1 op dst =>
    rcases exec1_cases op dst s with ⟨h, -⟩ | ⟨d, -, ⟨-, h⟩ | ⟨-, h⟩⟩ <;> simp [h]
  | compare op dst src =>
    rcases execFlagsOnly_cases op dst src s with ⟨h, -⟩ | ⟨d, b, -, -, ⟨-, h⟩ | ⟨-, h⟩⟩ <;> simp [h]
  | copy dst src =>
    rcases execCopy_cases dst src s with ⟨h, -⟩ | ⟨d, b, -, -, ⟨-, h⟩ | ⟨-, h⟩⟩ <;> simp [h]
  | jump cond rel =>
    obtain ⟨a, h⟩ := jump_state cond rel s
    simp [h]
  | halt hi => exact ⟨Nat.zero_le _, fun hne => absurd hi hne⟩
  | send port size win _ isP =>
    exact ⟨(sendOperands_ends port size win s).cycles_le, fun _ hp => absurd (hp.symm.trans isP) Bool.false_ne_true⟩
  | recv port win _ isP =>
    exact ⟨(recvOperands_ends port win s).cycles_le, fun _ hp => absurd (hp.symm.trans isP) Bool.false_ne_true⟩

/-- A step that succeeds executed an instruction that the budget paid, to a result `success` (R103). -/
theorem step_success {s t : State} (h : step s = .next t) (ht : t.outcome = some .success) :
    ∃ i R, fetch s = some i ∧ cost i ≤ s.cycles ∧ Shape i (charge (cost i) s) R ∧ t.cycles = R.state.cycles := by
  rcases step_cases s t h with ⟨-, rfl⟩ | ⟨-, -, rfl⟩ | ⟨i, -, -, -, rfl⟩ | ⟨i, R, -, hf, hc, shape, rfl⟩
  · cases ht
  · cases ht
  · cases ht
  · obtain ⟨u, b, rfl⟩ := (conclude_outcome_success i _ R).mp ht
    exact ⟨i, _, hf, hc, shape, concludeSuccess_cycles i _ u b⟩

/-- Settles O19: the cost was charged before the execution, and `Shape.cycles` says what that does to the rest. -/
theorem successPaysCost : Obligations.SuccessPaysCost := by
  intro s t h ht
  obtain ⟨i, R, hf, hc, shape, hcycles⟩ := step_success h ht
  obtain ⟨hle, heq⟩ := shape.cycles
  rw [← hcycles, charge_cycles] at hle heq
  refine ⟨i, hf, by omega, fun hhlt hport => ?_⟩
  have := heq hhlt hport
  omega

/-! ### `Run` returns (R105) -/

/-- The budget falls with every success: every instruction costs at least one cycle. -/
theorem step_success_cycles_lt {s t : State} (h : step s = .next t) (ht : t.outcome = some .success) :
    t.cycles < s.cycles := by
  obtain ⟨i, -, hpaid, -⟩ := successPaysCost s t h ht
  have := one_le_cost i
  omega

/-- Every step records how it ended (log entry 5). -/
theorem step_outcome_ne_none {s t : State} (h : step s = .next t) : t.outcome ≠ none := by
  rcases step_cases s t h with ⟨-, rfl⟩ | ⟨-, -, rfl⟩ | ⟨i, -, -, -, rfl⟩ | ⟨i, R, -, -, -, -, rfl⟩
  · simp
  · simp
  · simp
  · cases R <;> simp [conclude]

/-- Any two numbers of iterations above the budget give the same: the loop has returned before either is used up. -/
theorem runLoop_eq_of_lt {m n : Nat} {s : State} (hm : s.cycles < m) (hn : s.cycles < n) :
    runLoop m s = runLoop n s := by
  induction m generalizing n s with
  | zero => omega
  | succ m ih =>
    obtain ⟨n, rfl⟩ : ∃ k, n = k + 1 := ⟨n - 1, by omega⟩
    obtain ⟨t, ht⟩ := step_next s
    rw [runLoop_succ _ _ _ ht, runLoop_succ _ _ _ ht]
    split
    · next hsucc =>
      have := step_success_cycles_lt ht hsucc
      exact ih (by omega) (by omega)
    · rfl

/-- With more iterations than the budget, the loop ends in a stop (R105). -/
theorem runLoop_stops {n : Nat} {s : State} (hn : s.cycles < n) :
    (runLoop n s).outcome ≠ none ∧ (runLoop n s).outcome ≠ some .success := by
  induction n generalizing s with
  | zero => omega
  | succ n ih =>
    obtain ⟨t, ht⟩ := step_next s
    rw [runLoop_succ _ _ _ ht]
    split
    · next hsucc =>
      have := step_success_cycles_lt ht hsucc
      exact ih (by omega)
    · next hstop => exact ⟨step_outcome_ne_none ht, hstop⟩

/-- Settles O18: `run` is the loop with one iteration more than the budget, and more of them change nothing. -/
theorem runAlwaysReturns : Obligations.RunAlwaysReturns := fun s =>
  ⟨fun _ hn => runLoop_eq_of_lt hn (Nat.lt_succ_self _), runLoop_stops (Nat.lt_succ_self s.cycles)⟩

/-! ### Where `pc` goes, by the control-flow class (R104, R120, R121) -/

/-- What the class of an instruction says of its result: a success that does not reposition `pc` has no static target
unless it is conditional; one that repositions `pc` is a branch, at its static target if it has one; and an instruction
that does not succeed leaves `pc`. -/
inductive PcMoves (i : Instr) (s : State) : Result → Prop
  | goesOn {t : State} (cond : ∀ a, (getControlFlow s.pc i).target = .static a →
      (getControlFlow s.pc i).evaluation = .conditional) : PcMoves i s (.success t false)
  | branches {t : State} (branch : (getControlFlow s.pc i).effect = .branch)
      (target : ∀ a, (getControlFlow s.pc i).target = .static a → t.pc = a) : PcMoves i s (.success t true)
  | stalls {t : State} (stays : t.pc = s.pc) : PcMoves i s (.stall t)
  | fails {t : State} (stays : t.pc = s.pc) : PcMoves i s (.fail t)

/-- An instruction whose class has no target goes on. -/
theorem PcMoves.goesOn_of_target_none {i : Instr} {s t : State} (h : (getControlFlow s.pc i).target = .none) :
    PcMoves i s (.success t false) := .goesOn fun a ha => by cases h.symm.trans ha

/-- The write of an operand repositions `pc` exactly where the operand is `pc` (R104, R112). -/
theorem repositions_of_resolve {s : State} {o : Operand} {p : Place} (h : resolve s o = some p) :
    repositions p = decide (o = .reg .pc) := by
  cases o with
  | na | naInvalid => cases h
  | imm | rel | mem =>
    cases h
    rfl
  | reg r =>
    cases h
    cases r <;> rfl

/-- An instruction that writes operand 0 is a branch with a dynamic target where that is `pc`, and else goes on (R120). -/
theorem PcMoves.of_write {i : Instr} {s t : State} {dst : Operand} {d : Place}
    (flow : getControlFlow s.pc i = writerFlow dst) (hd : resolve s dst = some d) :
    PcMoves i s (.success t (repositions d)) := by
  rw [repositions_of_resolve hd]
  by_cases h : dst = .reg .pc
  · subst h
    exact .branches (by rw [flow]; rfl) fun a ha => by rw [flow] at ha; cases ha
  · rw [decide_eq_false h]
    exact .goesOn_of_target_none (by rw [flow, writerFlow, if_neg h]; rfl)

/-- A port operation has no target (R120): it goes on where it succeeds, and else stays. -/
theorem PortEnds.pcMoves {i : Instr} {s : State} {R : Result} (h : PortEnds s R)
    (flow : getControlFlow s.pc i = ioFlow) : PcMoves i s R := by
  cases h with
  | fails => exact .fails rfl
  | stalls pc => exact .stalls pc
  | succeeds => exact .goesOn_of_target_none (by rw [flow]; rfl)

/-- Every instruction moves `pc` as its class says. -/
theorem Shape.pcMoves {i : Instr} {s : State} {R : Result} (h : Shape i s R) : PcMoves i s R := by
  cases h with
  | mutate2 op dst src =>
    rename_i flow
    rcases exec2_cases op dst src s with ⟨h, -⟩ | ⟨d, b, hd, -, ⟨-, h⟩ | ⟨-, h⟩⟩ <;> rw [h]
    · exact .fails rfl
    · exact .stalls (by simp)
    · exact .of_write flow hd
  | mutate1 op dst =>
    rename_i flow
    rcases exec1_cases op dst s with ⟨h, -⟩ | ⟨d, hd, ⟨-, h⟩ | ⟨-, h⟩⟩ <;> rw [h]
    · exact .fails rfl
    · exact .stalls (by simp)
    · exact .of_write flow hd
  | compare op dst src =>
    rename_i flow
    rcases execFlagsOnly_cases op dst src s with ⟨h, -⟩ | ⟨d, b, -, -, ⟨-, h⟩ | ⟨-, h⟩⟩ <;> rw [h]
    · exact .fails rfl
    · exact .stalls (by simp)
    · exact .goesOn_of_target_none (by rw [flow]; rfl)
  | copy dst src =>
    rename_i flow
    rcases execCopy_cases dst src s with ⟨h, -⟩ | ⟨d, b, hd, -, ⟨-, h⟩ | ⟨-, h⟩⟩ <;> rw [h]
    · exact .fails rfl
    · exact .stalls (by simp)
    · exact .of_write flow hd
  | jump cond rel ev =>
    rename_i flow always _ _
    rcases jump_cases cond rel s with ⟨-, h⟩ | ⟨hc, h⟩ <;> rw [h]
    · exact .branches (by rw [flow]; rfl) fun a ha => by rw [flow] at ha; cases ha; rfl
    · refine .goesOn fun _ _ => ?_
      rw [flow]
      cases ev with
      | conditional => rfl
      | unconditional =>
        rw [always rfl] at hc
        cases hc
  | halt hi =>
    subst hi
    exact .goesOn_of_target_none rfl
  | send port size win =>
    rename_i flow
    exact (sendOperands_ends port size win s).pcMoves flow
  | recv port win =>
    rename_i flow
    exact (recvOperands_ends port win s).pcMoves flow

/-- The effect of an instruction does not depend on where it stands: only a jump's target does. -/
theorem getControlFlow_effect (a b : Byte) (i : Instr) :
    (getControlFlow a i).effect = (getControlFlow b i).effect := by
  cases i <;> rfl

theorem predictableFlow_iff (a : Byte) (i : Instr) : predictableFlow i = true ↔ (getControlFlow a i).effect = .none := by
  rw [predictableFlow, decide_eq_true_iff, getControlFlow_effect 0 a]

/-- The instructions of effect none (R121). -/
theorem predictableFlow_iff_kind (i : Instr) :
    predictableFlow i = true ↔
      isJump i = false ∧ i ≠ .hlt ∧ isPort i = false ∧ (writesOperand0 i = true → operand0 i ≠ .reg .pc) := by
  obtain ⟨R, -, shape⟩ := exec_shape i State.reset
  cases shape with
  | mutate2 | mutate1 | compare | copy => simp [*]
  | jump => simp [*]
  | halt hi =>
    subst hi
    exact iff_of_false (by decide) fun ⟨_, h, _⟩ => h rfl
  | send | recv =>
    rename_i flow
    rw [predictableFlow_iff, flow]
    simp [ioFlow, ‹isPort i = true›]

/-- Settles O28: of effect none, an instruction cannot branch, so `PcMoves` leaves `pc` the next address or its own. -/
theorem predictableFlowAdvances : Obligations.PredictableFlowAdvances := by
  refine ⟨predictableFlow_iff_kind, fun i s t hpred h => ?_⟩
  obtain ⟨R, hR, shape⟩ := exec_shape i s
  obtain rfl : conclude i s R = t := Host.Outcome.next.inj (hR.symm.trans h)
  cases shape.pcMoves with
  | goesOn => simp [conclude, nextPc]
  | branches branch => cases ((predictableFlow_iff s.pc i).mp hpred).symm.trans branch
  | stalls stays => simp [conclude, stays]
  | fails stays => simp [conclude, stays]

/-- Settles O29: `PcMoves` on a success, with its two ways to end. -/
theorem controlFlowSaysWherePcGoes : Obligations.ControlFlowSaysWherePcGoes := by
  intro i s t h hsucc
  obtain ⟨R, hR, shape⟩ := exec_shape i s
  obtain rfl : conclude i s R = t := Host.Outcome.next.inj (hR.symm.trans h)
  cases shape.pcMoves with
  | @goesOn u cond =>
    have hpc : (conclude i s (.success u false)).pc = nextPc i s := by simp [conclude, nextPc]
    exact ⟨fun a ha => .inr ⟨cond a ha, hpc⟩, fun _ => hpc⟩
  | branches branch target =>
    exact ⟨fun a ha => .inl (by simp [conclude, target a ha]), fun hne => absurd branch hne⟩
  | stalls => cases hsucc
  | fails => cases hsucc

end Sys2Proof.Machine
end

section
/-! PROOFS. The statement about data movement (spec/41_data_movement.md): `mov` copies a byte (O32), with the facts about
two-operand encodings, writes and stalls that hold for every instruction that writes operand 0. -/

namespace Sys2Proof.Machine

open Sys2Proof

/-! ### The two rows of a two-operand mnemonic -/

/-- The bits of an `R, I` and an `RM, RM` row are the opcode and the two fields, from the row's opcode and fields. -/
theorem encoded2_of_args {ri : RegOp → Byte → Instr} {rm : RMOp → RMOp → Instr} {n : Nat}
    (opcodeRI : ∀ d v, (ri d v).opcode = n) (opcodeRM : ∀ d b, (rm d b).opcode = n + 1)
    (argsRI : ∀ d v, (ri d v).args = [.R d, .I v]) (argsRM : ∀ d b, (rm d b).args = [.RM d, .RM b]) :
    Encoded2 ri rm n :=
  ⟨fun d v => by simp [encodeBits, opcodeRI, argsRI, Arg.bits],
    fun d b => by simp [encodeBits, opcodeRM, argsRM]⟩

/-- An operand that is written in the instruction is never the absent one (R63). -/
theorem Form2.operands_ne_na {ri : RegOp → Byte → Instr} {rm : RMOp → RMOp → Instr} {i : Instr} {dst src : Operand}
    (form : Form2 ri rm i dst src) : dst ≠ .na ∧ src ≠ .na := by
  rcases form with ⟨d, v, -, rfl, rfl⟩ | ⟨d, b, -, rfl, rfl⟩
  · exact ⟨d.operand_ne_na, by simp⟩
  · exact ⟨d.operand_ne_na, b.operand_ne_na⟩

/-! ### The write of operand 0 -/

theorem place_eq_register_iff {s : State} {o : Operand} {p : Place} (h : resolve s o = some p) (r : Reg) :
    p = .register r ↔ o = .reg r := by
  rw [← resolve_eq_register s, h, Option.some.injEq]

theorem place_eq_cell_iff {s : State} {o : Operand} {p : Place} (h : resolve s o = some p) (a : Byte) :
    p = .cell a ↔ operandAddress s o = some a := by
  rw [← mem_placeAddresses h]
  cases p <;> simp [placeAddresses, eq_comm]

/-- An instruction that writes operand 0, and `flags` or not, ends with only that written (R104, R112). -/
theorem writesOnly_of_resolve {s : State} {dst : Operand} {d : Place} (hd : resolve s dst = some d) (i : Instr)
    (v f : Byte) :
    WritesOnly i s (conclude i s (.success { writePlace s d v with flags := f } (repositions d))) dst v := by
  refine ⟨fun g => ?reg, fun a => ?byte, ?pc⟩
  case reg => simp [conclude, writePlace_regs_get, place_eq_register_iff hd]
  case byte => simp [conclude, writePlace_read, place_eq_cell_iff hd]
  case pc =>
    by_cases hpc : dst = .reg .pc <;> simp [conclude, writePlace_pc, repositions_of_resolve hd, hpc, nextPc]

/-- A write of operand 0 and of `flags` leaves the state that no operand names. -/
theorem completed_of_write (i : Instr) (s : State) (d : Place) (v f : Byte) (repositioned : Bool) :
    Completed s (conclude i s (.success { writePlace s d v with flags := f } repositioned)) := by
  simp [Completed, conclude]

/-! ### The stall on a breakpoint (R103, R263) -/

/-- An instruction that a breakpoint stops pauses the debugger and has no other effect. -/
theorem waits_of_setPause (i : Instr) (s : State) : Waits i s (conclude i s (.stall (setDebugMode .pause s))) := by
  simp [Waits, LeavesData, conclude]

/-! ### `mov` (R140) -/

/-- Both rows of `mov` are the copy template on their operands. -/
theorem exec_mov {i : Instr} {dst src : Operand} (form : Form2 .movRI .movRM i dst src) (s : State) :
    exec i s = .next (conclude i s (execCopy dst src s)) := by
  rcases form with ⟨d, v, rfl, rfl, rfl⟩ | ⟨d, b, rfl, rfl, rfl⟩ <;> rfl

theorem execCopy_of_naInvalid {dst src : Operand} (h : dst = .naInvalid ∨ src = .naInvalid) (s : State) :
    execCopy dst src s = .fail s := by
  rcases execCopy_cases dst src s with ⟨hfail, -⟩ | ⟨d, b, hd, hb, -⟩
  · exact hfail
  · exact (h.elim (ne_naInvalid_of_resolve hd) (ne_naInvalid_of_resolve hb)).elim

/-- A copy between operands that are there stalls where a breakpoint stands at an address it accesses (R114, R263). -/
theorem execCopy_of_not_clear {dst src : Operand} {s : State} (hdNa : dst ≠ .na) (hbNa : src ≠ .na)
    (hdInv : dst ≠ .naInvalid) (hbInv : src ≠ .naInvalid) (hclear : ¬(readClear s src ∧ writeClear s dst)) :
    execCopy dst src s = .stall (setDebugMode .pause s) := by
  rcases execCopy_cases dst src s with ⟨-, hd | hb⟩ | ⟨d, b, hd, hb, ⟨-, h⟩ | ⟨hit, -⟩⟩
  · exact (((resolve_eq_none s dst).mp hd).elim hdNa hdInv).elim
  · exact (((resolve_eq_none s src).mp hb).elim hbNa hbInv).elim
  · exact h
  · obtain ⟨hr, hw⟩ := (breakpointHit_eq_false s _ _).mp hit
    exact absurd ⟨(readClear_iff hb).mpr hr, (writeClear_iff hd).mpr hw⟩ hclear

/-- Settles O32, clause by clause of the three ways a copy ends: `execCopy_of_clear`, `execCopy_of_naInvalid` and
`execCopy_of_not_clear`. -/
theorem movCopiesByte : Obligations.MovCopiesByte := by
  refine ⟨encoded2_of_args (fun _ _ => rfl) (fun _ _ => rfl) (fun _ _ => rfl) (fun _ _ => rfl), ?_⟩
  intro i dst src s form
  rw [exec_mov form]
  refine ⟨?copied, ?failed, ?waiting⟩
  case copied =>
    intro v w hv hw hread hwrite
    obtain ⟨b, hb, rfl⟩ := (readOperand_eq_some s src v).mp hv
    obtain ⟨d, hd, -⟩ := (readOperand_eq_some s dst w).mp hw
    rw [execCopy_of_clear hd hb hwrite hread]
    refine ⟨_, rfl, completed_of_write i s d _ _ _, writesOnly_of_resolve hd i _ _, ?_⟩
    simp [writePlace_flags, place_eq_register_iff hd]
  case failed =>
    intro hinv
    rw [execCopy_of_naInvalid hinv]
    rfl
  case waiting =>
    intro hdInv hbInv hclear
    obtain ⟨hdNa, hbNa⟩ := form.operands_ne_na
    rw [execCopy_of_not_clear hdNa hbNa hdInv hbInv hclear]
    exact ⟨_, rfl, waits_of_setPause i s, by simp [conclude], by simp [conclude]⟩

end Sys2Proof.Machine
end

section
/-! PROOFS. The statements about arithmetic (spec/42_arithmetic.md): `add`, `sub`, `mul`, `cmp` and `neg` (O33 to O37), with
the facts about the flags byte and about the templates that hold for every instruction that computes flags. -/

namespace Sys2Proof.Machine

open Sys2Proof

/-! ### The flags byte, bit by bit (R115) -/

theorem flags4_bits (r : Byte) (c o : Bool) :
    flagZ (flags4 r c o) = decide (r = 0) ∧ flagC (flags4 r c o) = c ∧ flagS (flags4 r c o) = bit7 r ∧
      flagO (flags4 r c o) = o := by
  unfold flags4
  generalize bit7 r = sign
  by_cases hz : r = 0 <;> simp only [hz] <;> cases c <;> cases o <;> cases sign <;> decide

theorem bit7_eq_msb (v : Byte) : bit7 v = v.msb := (BitVec.msb_eq_getLsbD_last v).symm

theorem bit7_iff (v : Byte) : bit7 v = true ↔ 128 ≤ v.toNat := by simp [bit7_eq_msb, BitVec.msb_eq_decide]

/-- The flags byte of a result: Z and S say what the result is, C and O what the operation says they are. -/
theorem flagsAre_flags4 {r : Byte} {c o : Bool} {C O : Prop} (hc : c = true ↔ C) (ho : o = true ↔ O) :
    FlagsAre (flags4 r c o) (r = 0) C (128 ≤ r.toNat) O := by
  obtain ⟨zero, carry, sign, overflow⟩ := flags4_bits r c o
  exact ⟨(Bool.eq_iff_iff.mp zero).trans decide_eq_true_iff, (Bool.eq_iff_iff.mp carry).trans hc,
    (Bool.eq_iff_iff.mp sign).trans (bit7_iff r), (Bool.eq_iff_iff.mp overflow).trans ho, flags4_lt r c o⟩

/-! ### The operations as operations of bytes -/

theorem addOp_eq (a b : Byte) :
    addOp a b = (a + b, flags4 (a + b) (decide (255 < a.toNat + b.toNat)) (a.saddOverflow b)) := by
  simp [addOp, BitVec.ofNat_add, BitVec.saddOverflow_eq, bit7_eq_msb, bne]

theorem ofInt_sub_toNat (a b : Byte) : BitVec.ofInt 8 ((a.toNat : Int) - b.toNat) = a - b := by
  simp [sub_eq_add_neg, BitVec.ofInt_add, BitVec.ofInt_neg]

theorem subOp_eq (a b : Byte) :
    subOp a b = (a - b, flags4 (a - b) (decide (a.toNat < b.toNat)) (a.ssubOverflow b)) := by
  have overflow : (a.msb != b.msb && (a - b).msb != a.msb) = a.ssubOverflow b := by
    rw [BitVec.ssubOverflow_eq]
    cases a.msb <;> cases b.msb <;> simp
  simp only [subOp, ofInt_sub_toNat, bit7_eq_msb, overflow]

theorem mulOp_eq (a b : Byte) :
    mulOp a b = (a * b, flags4 (a * b) (decide (255 < a.toNat * b.toNat)) (decide (255 < a.toNat * b.toNat))) := by
  simp [mulOp, BitVec.ofNat_mul]

theorem negOp_eq (a : Byte) : negOp a = (-a, flags4 (-a) (decide (a ≠ 0)) (decide (a = 0x80))) := by
  simp [negOp, BitVec.ofInt_neg]

theorem saddOverflow_iff (a b : Byte) :
    a.saddOverflow b = true ↔ a.toInt + b.toInt < -128 ∨ 127 < a.toInt + b.toInt := by
  rw [BitVec.saddOverflow, Bool.or_eq_true, decide_eq_true_iff, decide_eq_true_iff]
  omega

theorem ssubOverflow_iff (a b : Byte) :
    a.ssubOverflow b = true ↔ a.toInt - b.toInt < -128 ∨ 127 < a.toInt - b.toInt := by
  rw [BitVec.ssubOverflow, Bool.or_eq_true, decide_eq_true_iff, decide_eq_true_iff]
  omega

theorem toNat_sub_eq_emod (a b : Byte) : ((a - b).toNat : Int) = ((a.toNat : Int) - b.toNat) % 256 := by
  rw [BitVec.toNat_sub]
  omega

theorem toNat_neg_eq_emod (a : Byte) : ((-a).toNat : Int) = (0 - (a.toNat : Int)) % 256 := by
  rw [BitVec.toNat_neg]
  omega

/-! ### The templates where no breakpoint stops them (R114, R117) -/

theorem exec2_of_clear (op : Byte → Byte → Byte × Byte) {dst src : Operand} {s : State} {d b : Place}
    (hd : resolve s dst = some d) (hb : resolve s src = some b) (hread : readClear s dst) (hwrite : writeClear s dst)
    (hsrc : readClear s src) :
    exec2 op dst src s =
      .success { writePlace s d (op (readPlace s d) (readPlace s b)).1 with
        flags := (op (readPlace s d) (readPlace s b)).2 } (repositions d) := by
  have hclear : breakpointHit s (placeAddresses d ++ placeAddresses b) (placeAddresses d) = false :=
    (breakpointHit_eq_false s _ _).mpr
      ⟨List.forall_mem_append.mpr ⟨(readClear_iff hd).mp hread, (readClear_iff hb).mp hsrc⟩,
        (writeClear_iff hd).mp hwrite⟩
  simp [exec2, hd, hb, hclear]

theorem exec1_of_clear (op : Byte → Byte × Byte) {dst : Operand} {s : State} {d : Place} (hd : resolve s dst = some d)
    (hread : readClear s dst) (hwrite : writeClear s dst) :
    exec1 op dst s =
      .success { writePlace s d (op (readPlace s d)).1 with flags := (op (readPlace s d)).2 } (repositions d) := by
  have hclear : breakpointHit s (placeAddresses d) (placeAddresses d) = false :=
    (breakpointHit_eq_false s _ _).mpr ⟨(readClear_iff hd).mp hread, (writeClear_iff hd).mp hwrite⟩
  simp [exec1, hd, hclear]

theorem execFlagsOnly_of_readyRead (op : Byte → Byte → Byte × Byte) {dst src : Operand} {s : State} {a b : Byte}
    (ready : ReadyRead s dst src a b) : execFlagsOnly op dst src s = .success { s with flags := (op a b).2 } false := by
  obtain ⟨ha, hb, hdst, hsrc⟩ := ready
  obtain ⟨d, hd, rfl⟩ := (readOperand_eq_some s dst a).mp ha
  obtain ⟨p, hp, rfl⟩ := (readOperand_eq_some s src b).mp hb
  have hclear : breakpointHit s (placeAddresses d ++ placeAddresses p) [] = false :=
    (breakpointHit_eq_false s _ _).mpr
      ⟨List.forall_mem_append.mpr ⟨(readClear_iff hd).mp hdst, (readClear_iff hp).mp hsrc⟩, by simp⟩
  simp [execFlagsOnly, hd, hp, hclear]

/-! ### The rows of a mnemonic and their template -/

/-- Both rows of a two-operand mnemonic execute one template on their operands. -/
def RowsRun (template : Operand → Operand → State → Result) (ri : RegOp → Byte → Instr) (rm : RMOp → RMOp → Instr) :
    Prop :=
  (∀ d v s, exec (ri d v) s = .next (conclude (ri d v) s (template d.operand (.imm v) s))) ∧
    ∀ d b s, exec (rm d b) s = .next (conclude (rm d b) s (template d.operand b.operand s))

theorem RowsRun.exec_eq {template : Operand → Operand → State → Result} {ri : RegOp → Byte → Instr}
    {rm : RMOp → RMOp → Instr} (rows : RowsRun template ri rm) {i : Instr} {dst src : Operand}
    (form : Form2 ri rm i dst src) (s : State) : exec i s = .next (conclude i s (template dst src s)) := by
  rcases form with ⟨d, v, rfl, rfl, rfl⟩ | ⟨d, b, rfl, rfl, rfl⟩
  · exact rows.1 d v s
  · exact rows.2 d b s

/-- Where its operands are ready, a two-operand instruction that computes flags completes, writes the operation's result to
operand 0 and its flags byte to `flags` (R117). -/
theorem RowsRun.completes {op : Byte → Byte → Byte × Byte} {ri : RegOp → Byte → Instr} {rm : RMOp → RMOp → Instr}
    (rows : RowsRun (exec2 op) ri rm) {i : Instr} {dst src : Operand} {s : State} {a b : Byte}
    (form : Form2 ri rm i dst src) (ready : Ready2 s dst src a b) :
    ∃ t, exec i s = .next t ∧ Completed s t ∧ WritesOnly i s t dst (op a b).1 ∧ t.flags = (op a b).2 := by
  obtain ⟨ha, hb, hread, hwrite, hsrc⟩ := ready
  obtain ⟨d, hd, rfl⟩ := (readOperand_eq_some s dst a).mp ha
  obtain ⟨p, hp, rfl⟩ := (readOperand_eq_some s src b).mp hb
  rw [rows.exec_eq form, exec2_of_clear op hd hp hread hwrite hsrc]
  exact ⟨_, rfl, completed_of_write .., writesOnly_of_resolve hd .., by simp⟩

/-- A two-operand mnemonic does what its operation does to a pair of bytes: its result is as `res` says, and its flags byte
is that of the result with C and O as `c` and `o` say (R115, R117). -/
theorem RowsRun.mutates2 {op : Byte → Byte → Byte × Byte} {ri : RegOp → Byte → Instr} {rm : RMOp → RMOp → Instr} {n : Nat}
    {pre : Byte → Byte → Prop} {res c o : Byte → Byte → Byte → Prop} (rows : RowsRun (exec2 op) ri rm)
    (encoded : Encoded2 ri rm n)
    (computes : ∀ a b, pre a b → ∃ r carry overflow, op a b = (r, flags4 r carry overflow) ∧ res a b r ∧
      (carry = true ↔ c a b r) ∧ (overflow = true ↔ o a b r)) :
    Mutates2 ri rm n pre res c o := by
  refine ⟨encoded, fun i dst src s a b form ready hpre => ?_⟩
  obtain ⟨r, carry, overflow, hop, hres, hc, ho⟩ := computes a b hpre
  obtain ⟨t, hexec, hcompleted, hwrites, hflags⟩ := rows.completes form ready
  rw [hop] at hwrites hflags
  exact ⟨t, r, hexec, hcompleted, hres, hwrites, hflags ▸ flagsAre_flags4 hc ho⟩

/-- A one-operand mnemonic does what its operation does to a byte (R115, R117). -/
theorem mutates1_of_exec1 {op : Byte → Byte × Byte} {c1 : RMOp → Instr} {n : Nat} {res c o : Byte → Byte → Prop}
    (run : ∀ d s, exec (c1 d) s = .next (conclude (c1 d) s (exec1 op d.operand s)))
    (encoded : ∀ d, encodeBits (c1 d) = natBits 6 n ++ (Arg.RM d).bits)
    (computes : ∀ a, ∃ r carry overflow, op a = (r, flags4 r carry overflow) ∧ res a r ∧ (carry = true ↔ c a r) ∧
      (overflow = true ↔ o a r)) :
    Mutates1 c1 n res c o := by
  refine ⟨encoded, fun d s a ha hread hwrite => ?_⟩
  obtain ⟨p, hp, rfl⟩ := (readOperand_eq_some s d.operand a).mp ha
  obtain ⟨r, carry, overflow, hop, hres, hc, ho⟩ := computes (readPlace s p)
  rw [run, exec1_of_clear op hp hread hwrite, hop]
  exact ⟨_, r, rfl, completed_of_write .., hres, writesOnly_of_resolve hp .., by simpa using flagsAre_flags4 hc ho⟩

/-- The bits of an `RM` row are the opcode and the one field, from the row's opcode and fields. -/
theorem encoded1_of_args {c1 : RMOp → Instr} {n : Nat} (opcode : ∀ d, (c1 d).opcode = n)
    (args : ∀ d, (c1 d).args = [.RM d]) (d : RMOp) : encodeBits (c1 d) = natBits 6 n ++ (Arg.RM d).bits := by
  simp [encodeBits, opcode, args]

/-! ### `add`, `sub` and `mul` (R145 to R147) -/

/-- Settles O33: `addOp_eq`, with the signed overflow of the sum as `saddOverflow_iff` says it. -/
theorem addResult : Obligations.AddResult :=
  RowsRun.mutates2 (op := addOp) ⟨fun _ _ _ => rfl, fun _ _ _ => rfl⟩
    (encoded2_of_args (fun _ _ => rfl) (fun _ _ => rfl) (fun _ _ => rfl) (fun _ _ => rfl))
    fun a b _ => ⟨_, _, _, addOp_eq a b, BitVec.toNat_add a b, decide_eq_true_iff, saddOverflow_iff a b⟩

/-- Settles O34: `subOp_eq`, with the signed overflow of the difference as `ssubOverflow_iff` says it. -/
theorem subResult : Obligations.SubResult :=
  RowsRun.mutates2 (op := subOp) ⟨fun _ _ _ => rfl, fun _ _ _ => rfl⟩
    (encoded2_of_args (fun _ _ => rfl) (fun _ _ => rfl) (fun _ _ => rfl) (fun _ _ => rfl))
    fun a b _ => ⟨_, _, _, subOp_eq a b, toNat_sub_eq_emod a b, decide_eq_true_iff, ssubOverflow_iff a b⟩

/-- Settles O35: `mulOp_eq`; C and O are one condition, that the product needs its high byte. -/
theorem mulResult : Obligations.MulResult :=
  RowsRun.mutates2 (op := mulOp) ⟨fun _ _ _ => rfl, fun _ _ _ => rfl⟩
    (encoded2_of_args (fun _ _ => rfl) (fun _ _ => rfl) (fun _ _ => rfl) (fun _ _ => rfl))
    fun a b _ => ⟨_, _, _, mulOp_eq a b, BitVec.toNat_mul a b, decide_eq_true_iff, decide_eq_true_iff⟩

/-! ### `cmp` (R148) -/

/-- The flags of a difference say how its operands compare: it is 0 where they are equal. -/
theorem subOp_flagsAre_compare (a b : Byte) :
    FlagsAre (subOp a b).2 (a = b) (a.toNat < b.toNat) (128 ≤ (a - b).toNat)
      (a.toInt - b.toInt < -128 ∨ 127 < a.toInt - b.toInt) := by
  rw [subOp_eq, ← sub_eq_zero (a := a)]
  exact flagsAre_flags4 decide_eq_true_iff (ssubOverflow_iff a b)

/-- Both rows of `cmp` are in the class without control-flow effect (R120). -/
theorem getControlFlow_cmp {i : Instr} {dst src : Operand} (form : Form2 .cmpRI .cmpRM i dst src) (a : Byte) :
    getControlFlow a i = straightFlow := by
  rcases form with ⟨d, v, rfl, -, -⟩ | ⟨d, b, rfl, -, -⟩ <;> rfl

/-- Settles O36: the template of `cmp` writes `flags` and nothing else, and `subOp_flagsAre_compare` says what. -/
theorem cmpSetsFlagsOnly : Obligations.CmpSetsFlagsOnly := by
  refine ⟨encoded2_of_args (fun _ _ => rfl) (fun _ _ => rfl) (fun _ _ => rfl) (fun _ _ => rfl), ?_⟩
  intro i dst src s a b form ready
  have rows : RowsRun (execFlagsOnly subOp) .cmpRI .cmpRM := ⟨fun _ _ _ => rfl, fun _ _ _ => rfl⟩
  rw [rows.exec_eq form, execFlagsOnly_of_readyRead subOp ready]
  refine ⟨getControlFlow_cmp form s.pc, _, rfl, ?completed, ?data, ?pc, ?flags⟩
  case completed => simp [Completed, conclude]
  case data => simp [LeavesData, conclude]
  case pc => simp [conclude, nextPc]
  case flags => simpa using subOp_flagsAre_compare a b

/-! ### `neg` (R149) -/

/-- Settles O37: `negOp_eq`; C is the borrow of 0 minus the operand, O that 128 does not fit. -/
theorem negResult : Obligations.NegResult :=
  mutates1_of_exec1 (op := negOp) (fun _ _ => rfl) (encoded1_of_args (fun _ => rfl) (fun _ => rfl))
    fun a => ⟨_, _, _, negOp_eq a, toNat_neg_eq_emod a, decide_eq_true_iff, decide_eq_true_iff⟩

end Sys2Proof.Machine
end

section
/-! PROOFS. The statements about bitwise logic (spec/43_logic.md): `and`, `or`, `xor` (O38) and `not` (O39), on the templates'
facts of the arithmetic part. -/

namespace Sys2Proof.Machine

open Sys2Proof

/-! ### The result and the flags of a logic operation (R155 to R158) -/

/-- A logic operation on a result that is as `res` says answers that result and its flags byte with C and O clear. -/
theorem logicOp_computes {res : Byte → Prop} {r : Byte} (hres : res r) :
    ∃ r' carry overflow, logicOp r = (r', flags4 r' carry overflow) ∧ res r' ∧ (carry = true ↔ False) ∧
      (overflow = true ↔ False) :=
  ⟨r, false, false, rfl, hres, iff_false_intro Bool.false_ne_true, iff_false_intro Bool.false_ne_true⟩

/-- The number 255 minus a byte is the byte with every bit inverted. -/
theorem ofNat_255_sub_toNat (a : Byte) : BitVec.ofNat 8 (255 - a.toNat) = ~~~a := by
  apply BitVec.eq_of_toNat_eq
  rw [BitVec.toNat_ofNat, BitVec.toNat_not]
  omega

theorem notOp_eq (a : Byte) : notOp a = logicOp (~~~a) := by
  rw [notOp, ofNat_255_sub_toNat]

/-! ### `and`, `or` and `xor` (R155 to R157) -/

/-- A two-operand mnemonic whose operation is the logic operation on `f` combines the operands bit by bit with `g`, where
`f` does so. -/
theorem RowsRun.mutates2_logic {f : Byte → Byte → Byte} {g : Bool → Bool → Bool} {ri : RegOp → Byte → Instr}
    {rm : RMOp → RMOp → Instr} {n : Nat} (rows : RowsRun (exec2 fun a b => logicOp (f a b)) ri rm)
    (encoded : Encoded2 ri rm n) (bitwise : ∀ a b k, (f a b).getLsbD k = g (a.getLsbD k) (b.getLsbD k)) :
    Mutates2 ri rm n (fun _ _ => True) (fun a b r => ∀ k, k < 8 → r.getLsbD k = g (a.getLsbD k) (b.getLsbD k))
      (fun _ _ _ => False) (fun _ _ _ => False) :=
  rows.mutates2 encoded fun a b _ => logicOp_computes fun k _ => bitwise a b k

/-- Settles O38: each of the three operations is a logic operation on a byte operation that the library gives bit by bit. -/
theorem logicResults : Obligations.LogicResults := by
  refine ⟨?and, ?or, ?xor⟩
  case and =>
    exact RowsRun.mutates2_logic (f := (· &&& ·)) ⟨fun _ _ _ => rfl, fun _ _ _ => rfl⟩
      (encoded2_of_args (fun _ _ => rfl) (fun _ _ => rfl) (fun _ _ => rfl) (fun _ _ => rfl))
      fun _ _ _ => BitVec.getLsbD_and
  case or =>
    exact RowsRun.mutates2_logic (f := (· ||| ·)) ⟨fun _ _ _ => rfl, fun _ _ _ => rfl⟩
      (encoded2_of_args (fun _ _ => rfl) (fun _ _ => rfl) (fun _ _ => rfl) (fun _ _ => rfl))
      fun _ _ _ => BitVec.getLsbD_or
  case xor =>
    exact RowsRun.mutates2_logic (f := (· ^^^ ·)) ⟨fun _ _ _ => rfl, fun _ _ _ => rfl⟩
      (encoded2_of_args (fun _ _ => rfl) (fun _ _ => rfl) (fun _ _ => rfl) (fun _ _ => rfl))
      fun _ _ _ => BitVec.getLsbD_xor

/-! ### `not` (R158) -/

/-- The inverted byte as a number and bit by bit. -/
theorem not_toNat_and_bits (a : Byte) :
    (~~~a).toNat = 255 - a.toNat ∧ ∀ k, k < 8 → (~~~a).getLsbD k = !a.getLsbD k :=
  ⟨BitVec.toNat_not, fun k hk => by simp [hk]⟩

/-- Settles O39: `notOp_eq`, and what the inverted byte is as a number and bit by bit. -/
theorem notResult : Obligations.NotResult :=
  mutates1_of_exec1 (op := notOp) (fun _ _ => rfl) (encoded1_of_args (fun _ => rfl) (fun _ => rfl))
    fun a => notOp_eq a ▸ logicOp_computes (not_toNat_and_bits a)

end Sys2Proof.Machine
end

section
/-! PROOFS. The statements about shifts (spec/44_shift.md): `shl` (O40) and `shr` (O41), on the templates' facts of the
arithmetic part. -/

namespace Sys2Proof.Machine

open Sys2Proof

/-! ### What both shifts have in common

The model tells three ranges of the count apart; the library's shifts need no such split. -/

/-- The carry of a shift by `n` whose last bit out is `bit`: clear where no bit of the byte is the last one out (R160,
R161). -/
def shiftCarry (n : Nat) (bit : Bool) : Bool := if n = 0 then false else if n ≤ 8 then bit else false

theorem shiftCarry_iff (n : Nat) (bit : Bool) : shiftCarry n bit = true ↔ 1 ≤ n ∧ n ≤ 8 ∧ bit = true := by
  rw [shiftCarry, Nat.one_le_iff_ne_zero]
  by_cases hzero : n = 0 <;> by_cases hle : n ≤ 8 <;> simp [hzero, hle]

/-- The three ranges of the count give one shift, where it keeps the byte at 0 and leaves nothing of it over 8. -/
theorem shiftResult_eq {a r : Byte} {shift : Nat → Byte} {n : Nat} (zero : shift 0 = a) (inside : r = shift n)
    (beyond : 8 ≤ n → shift n = 0) : (if n = 0 then a else if n ≤ 8 then r else 0) = shift n := by
  split_ifs with hzero hle
  · rw [hzero, zero]
  · exact inside
  · exact (beyond (Nat.le_of_not_le hle)).symm

/-- Where a shift's result is as `res` says, its C is the last bit out and its O says whether bit 7 changed. -/
theorem shift_computes {res : Byte → Prop} {a r : Byte} (n : Nat) (bit : Bool) (hres : res r) :
    ∃ r' carry overflow,
      (r, flags4 r (shiftCarry n bit) (bit7 r != bit7 a)) = (r', flags4 r' carry overflow) ∧ res r' ∧
        (carry = true ↔ 1 ≤ n ∧ n ≤ 8 ∧ bit = true) ∧ (overflow = true ↔ r'.getLsbD 7 ≠ a.getLsbD 7) :=
  ⟨r, _, _, rfl, hres, shiftCarry_iff n bit, bne_iff_ne⟩

/-! ### `shl` (R160) -/

theorem toNat_shiftLeft_eq_mul_mod (a : Byte) (n : Nat) : (a <<< n).toNat = a.toNat * 2 ^ n % 256 := by
  rw [BitVec.toNat_shiftLeft, Nat.shiftLeft_eq]

theorem ofNat_mul_two_pow (a : Byte) (n : Nat) : BitVec.ofNat 8 (a.toNat * 2 ^ n) = a <<< n :=
  BitVec.eq_of_toNat_eq (by rw [BitVec.toNat_ofNat, toNat_shiftLeft_eq_mul_mod])

theorem shlOp_eq (a cnt : Byte) :
    shlOp a cnt =
      (a <<< cnt.toNat, flags4 (a <<< cnt.toNat) (shiftCarry cnt.toNat (a.getLsbD (8 - cnt.toNat)))
        (bit7 (a <<< cnt.toNat) != bit7 a)) := by
  have result := shiftResult_eq (shift := (a <<< ·)) (BitVec.shiftLeft_zero a) (ofNat_mul_two_pow a cnt.toNat)
    BitVec.shiftLeft_eq_zero
  simp only [shlOp, shiftCarry, result]

/-- Settles O40: `shlOp_eq`, with the shifted byte as a number in `toNat_shiftLeft_eq_mul_mod`. -/
theorem shlResult : Obligations.ShlResult :=
  RowsRun.mutates2 (op := shlOp) ⟨fun _ _ _ => rfl, fun _ _ _ => rfl⟩
    (encoded2_of_args (fun _ _ => rfl) (fun _ _ => rfl) (fun _ _ => rfl) (fun _ _ => rfl))
    fun a cnt _ => shlOp_eq a cnt ▸ shift_computes cnt.toNat _ (toNat_shiftLeft_eq_mul_mod a cnt.toNat)

/-! ### `shr` (R161) -/

theorem toNat_ushiftRight_eq_div (a : Byte) (n : Nat) : (a >>> n).toNat = a.toNat / 2 ^ n := by
  rw [BitVec.toNat_ushiftRight, Nat.shiftRight_eq_div_pow]

theorem ofNat_div_two_pow (a : Byte) (n : Nat) : BitVec.ofNat 8 (a.toNat / 2 ^ n) = a >>> n := by
  rw [← toNat_ushiftRight_eq_div, BitVec.ofNat_toNat, BitVec.setWidth_eq]

theorem shrOp_eq (a cnt : Byte) :
    shrOp a cnt =
      (a >>> cnt.toNat, flags4 (a >>> cnt.toNat) (shiftCarry cnt.toNat (a.getLsbD (cnt.toNat - 1)))
        (bit7 (a >>> cnt.toNat) != bit7 a)) := by
  have result := shiftResult_eq (shift := (a >>> ·)) (BitVec.ushiftRight_zero a) (ofNat_div_two_pow a cnt.toNat)
    BitVec.ushiftRight_eq_zero
  simp only [shrOp, shiftCarry, result]

/-- Settles O41: `shrOp_eq`, with the shifted byte as a number in `toNat_ushiftRight_eq_div`. -/
theorem shrResult : Obligations.ShrResult :=
  RowsRun.mutates2 (op := shrOp) ⟨fun _ _ _ => rfl, fun _ _ _ => rfl⟩
    (encoded2_of_args (fun _ _ => rfl) (fun _ _ => rfl) (fun _ _ => rfl) (fun _ _ => rfl))
    fun a cnt _ => shrOp_eq a cnt ▸ shift_computes cnt.toNat _ (toNat_ushiftRight_eq_div a cnt.toNat)

end Sys2Proof.Machine
end

section
/-! PROOFS. The statements about division (spec/45_division.md): `udiv` and `umod` (O42), `sdiv` (O43), `smod` (O44), and the
one semantics of a divisor of 0 (O45), on the templates' facts of the arithmetic part. -/

namespace Sys2Proof

/-! ### Operands tell their fields apart (R85) -/

theorem RegOp.operand_injective : ∀ {d e : RegOp}, d.operand = e.operand → d = e
  | .reg _, .reg _, rfl => rfl
  | .naInvalid, .naInvalid, _ => rfl

theorem RMOp.operand_injective : ∀ {d e : RMOp}, d.operand = e.operand → d = e
  | .reg _, .reg _, h => congrArg RMOp.reg (RegOp.operand_injective h)
  | .mem _, .mem _, rfl => rfl
  | .reg (.reg _), .mem _, h => nomatch h
  | .reg .naInvalid, .mem _, h => nomatch h
  | .mem _, .reg (.reg _), h => nomatch h
  | .mem _, .reg .naInvalid, h => nomatch h

theorem RMOp.operand_ne_imm (v : Byte) : ∀ d : RMOp, d.operand ≠ .imm v
  | .reg (.reg _), h => nomatch h
  | .reg .naInvalid, h => nomatch h
  | .mem _, h => nomatch h

end Sys2Proof

namespace Sys2Proof.Machine

open Sys2Proof

/-! ### The four operations, where the divisor is not 0 (R165 to R168)

As the logic operations do, all but `sdiv` answer a result and its flags byte with C and O clear. -/

theorem udivOp_of_ne_zero {b : Byte} (hb : b ≠ 0) (a : Byte) : udivOp a b = logicOp (a / b) := by
  rw [udivOp, if_neg hb, logicOp, BitVec.udiv_def]

theorem umodOp_of_ne_zero {b : Byte} (hb : b ≠ 0) (a : Byte) : umodOp a b = logicOp (a % b) := by
  rw [umodOp, if_neg hb, logicOp, BitVec.umod_def, Nat.mod_def]

theorem sdivOp_of_ne_zero {b : Byte} (hb : b ≠ 0) (a : Byte) :
    sdivOp a b =
      (BitVec.ofInt 8 (a.toInt.tdiv b.toInt),
        flags4 (BitVec.ofInt 8 (a.toInt.tdiv b.toInt)) false (decide (a.toInt.tdiv b.toInt = 128))) :=
  if_neg hb

theorem smodOp_of_ne_zero {b : Byte} (hb : b ≠ 0) (a : Byte) :
    smodOp a b = logicOp (BitVec.ofInt 8 (a.toInt.tmod b.toInt)) := by
  rw [smodOp, if_neg hb, logicOp, Int.tmod_def]

/-! ### Signed quotient and remainder (R167, R168) -/

/-- A quotient rounded toward zero is not negative where the operands agree in sign. -/
theorem tdiv_nonneg_of_mul_nonneg {m n : Int} (h : 0 ≤ m * n) : 0 ≤ m.tdiv n := by
  rcases Int.mul_nonneg_iff.mp h with ⟨hm, hn⟩ | ⟨hm, hn⟩
  · exact Int.tdiv_nonneg hm hn
  · exact Int.tdiv_nonneg_of_nonpos_of_nonpos hm hn

/-- Where exactly one operand is negative the quotient is not positive: negating the divisor negates it. -/
theorem tdiv_nonpos_of_mul_neg {m n : Int} (h : m * n < 0) : m.tdiv n ≤ 0 := by
  have agree : 0 ≤ m * -n := by rw [mul_neg]; omega
  have negated : 0 ≤ -m.tdiv n := Int.tdiv_neg m n ▸ tdiv_nonneg_of_mul_nonneg agree
  omega

/-- A remainder has the sign of the dividend or is 0: negating the dividend negates it. -/
theorem tmod_mul_self_nonneg (m n : Int) : 0 ≤ m.tmod n * m := by
  rcases le_total 0 m with hm | hm
  · exact mul_nonneg (Int.tmod_nonneg n hm) hm
  · have negated : 0 ≤ -m.tmod n := Int.neg_tmod m n ▸ Int.tmod_nonneg n (neg_nonneg.mpr hm)
    exact mul_nonneg_of_nonpos_of_nonpos (neg_nonneg.mp negated) hm

/-- The one signed quotient that does not fit in a byte: the dividend's magnitude is at most 128, and only a divisor of
magnitude 1 leaves it whole. -/
theorem tdiv_toInt_eq_128_iff (a b : Byte) : a.toInt.tdiv b.toInt = 128 ↔ a.toInt = -128 ∧ b.toInt = -1 := by
  refine ⟨fun h => ?_, fun ⟨ha, hb⟩ => by rw [ha, hb]; rfl⟩
  have magnitude : a.toInt.natAbs / b.toInt.natAbs = 128 := (Int.natAbs_tdiv _ _).symm.trans (congrArg Int.natAbs h)
  have dividend : -128 ≤ a.toInt ∧ a.toInt < 128 := ⟨a.le_toInt, a.toInt_lt⟩
  have divisor : b.toInt.natAbs = 1 := by
    have whole := Nat.div_mul_le_self a.toInt.natAbs b.toInt.natAbs
    rw [magnitude] at whole
    have : b.toInt.natAbs ≠ 0 := fun hzero => by simp [hzero] at magnitude
    omega
  rw [divisor, Nat.div_one] at magnitude
  have ha : a.toInt = -128 := by omega
  refine ⟨ha, (Int.natAbs_eq_iff.mp divisor).resolve_left fun hone => ?_⟩
  rw [ha, hone] at h
  exact absurd h (by decide)

/-! ### A divisor of 0 (R169) -/

/-- `DivZero` on the resolved destination (R169). -/
def divZeroResult (s : State) (d : Place) : Result :=
  .success { writePlace s d 0 with flags := divZeroFlags } (repositions d)

/-- Two rows that execute a division on their operands: the operation answers as R169 says where the divisor is 0. -/
structure DivisionRows (op : Byte → Byte → Byte × Byte) (ri : RegOp → Byte → Instr) (rm : RMOp → RMOp → Instr) : Prop where
  run : RowsRun (exec2 op) ri rm
  argsRI : ∀ d v, (ri d v).args = [.R d, .I v]
  argsRM : ∀ d b, (rm d b).args = [.RM d, .RM b]
  zero : ∀ a, op a 0 = (0, divZeroFlags)

theorem udiv_rows : DivisionRows udivOp .udivRI .udivRM :=
  ⟨⟨fun _ _ _ => rfl, fun _ _ _ => rfl⟩, fun _ _ => rfl, fun _ _ => rfl, fun _ => if_pos rfl⟩

theorem umod_rows : DivisionRows umodOp .umodRI .umodRM :=
  ⟨⟨fun _ _ _ => rfl, fun _ _ _ => rfl⟩, fun _ _ => rfl, fun _ _ => rfl, fun _ => if_pos rfl⟩

theorem sdiv_rows : DivisionRows sdivOp .sdivRI .sdivRM :=
  ⟨⟨fun _ _ _ => rfl, fun _ _ _ => rfl⟩, fun _ _ => rfl, fun _ _ => rfl, fun _ => if_pos rfl⟩

theorem smod_rows : DivisionRows smodOp .smodRI .smodRM :=
  ⟨⟨fun _ _ _ => rfl, fun _ _ _ => rfl⟩, fun _ _ => rfl, fun _ _ => rfl, fun _ => if_pos rfl⟩

section
variable {op : Byte → Byte → Byte × Byte} {ri : RegOp → Byte → Instr} {rm : RMOp → RMOp → Instr}

theorem DivisionRows.exec_of_zero (rows : DivisionRows op ri rm) {i : Instr} {dst src : Operand} {s : State} {a : Byte}
    {d : Place} (form : Form2 ri rm i dst src) (ready : Ready2 s dst src a 0) (hd : resolve s dst = some d) :
    exec i s = .next (conclude i s (divZeroResult s d)) := by
  obtain ⟨-, hb, hread, hwrite, hsrc⟩ := ready
  obtain ⟨p, hp, hzero⟩ := (readOperand_eq_some s src 0).mp hb
  rw [rows.run.exec_eq form, exec2_of_clear op hd hp hread hwrite hsrc, hzero, rows.zero]
  rfl

theorem DivisionRows.dividesByZero (rows : DivisionRows op ri rm) : DividesByZero ri rm := by
  intro i dst src s a form ready
  obtain ⟨d, hd, -⟩ := (readOperand_eq_some s dst a).mp ready.1
  exact ⟨_, rows.exec_of_zero form ready hd, completed_of_write .., writesOnly_of_resolve hd .., conclude_flags ..⟩

/-- With an operation that answers as `res`, `c` and `o` say where the divisor is not 0, the rows do what R165 to R168 ask
of a division. -/
theorem DivisionRows.mutates2 {n : Nat} {res c o : Byte → Byte → Byte → Prop} (rows : DivisionRows op ri rm)
    (opcodeRI : ∀ d v, (ri d v).opcode = n) (opcodeRM : ∀ d b, (rm d b).opcode = n + 1)
    (computes : ∀ a b, b ≠ 0 → ∃ r carry overflow, op a b = (r, flags4 r carry overflow) ∧ res a b r ∧
      (carry = true ↔ c a b r) ∧ (overflow = true ↔ o a b r)) :
    Mutates2 ri rm n (fun _ b => b ≠ 0) res c o :=
  rows.run.mutates2 (encoded2_of_args opcodeRI opcodeRM rows.argsRI rows.argsRM) computes

end

/-! ### `udiv` and `umod` (R165, R166) -/

/-- Settles O42: the operations are the library's division and remainder of bytes, and `DivisionRows.dividesByZero` for a
divisor of 0. -/
theorem unsignedDivisionResults : Obligations.UnsignedDivisionResults := by
  refine ⟨udiv_rows.mutates2 (fun _ _ => rfl) (fun _ _ => rfl) fun a b hb => ?quotient, udiv_rows.dividesByZero,
    umod_rows.mutates2 (fun _ _ => rfl) (fun _ _ => rfl) fun a b hb => ?remainder, umod_rows.dividesByZero⟩
  case quotient =>
    rw [udivOp_of_ne_zero hb]
    exact logicOp_computes BitVec.toNat_udiv
  case remainder =>
    have positive : 0 < b.toNat := Nat.pos_of_ne_zero fun h => hb (BitVec.eq_of_toNat_eq h)
    have small : (a % b).toNat < b.toNat := BitVec.toNat_umod ▸ Nat.mod_lt _ positive
    have gives_back : a.toNat = b.toNat * (a.toNat / b.toNat) + (a % b).toNat :=
      BitVec.toNat_umod ▸ (Nat.div_add_mod a.toNat b.toNat).symm
    rw [umodOp_of_ne_zero hb]
    exact logicOp_computes ⟨small, gives_back⟩

/-! ### `sdiv` (R167) -/

/-- Settles O43: the quotient rounded toward zero, with `tdiv_toInt_eq_128_iff` for O. -/
theorem sdivResult : Obligations.SdivResult := by
  refine ⟨sdiv_rows.mutates2 (fun _ _ => rfl) (fun _ _ => rfl) fun a b hb => ?_, sdiv_rows.dividesByZero⟩
  exact ⟨_, _, _, sdivOp_of_ne_zero hb a,
    ⟨a.toInt.tdiv b.toInt, Int.natAbs_tdiv _ _, tdiv_nonneg_of_mul_nonneg, tdiv_nonpos_of_mul_neg, rfl⟩,
    iff_false_intro Bool.false_ne_true, decide_eq_true_iff.trans (tdiv_toInt_eq_128_iff a b)⟩

/-! ### `smod` (R168) -/

/-- Settles O44: the remainder of the quotient rounded toward zero. -/
theorem smodResult : Obligations.SmodResult := by
  refine ⟨smod_rows.mutates2 (fun _ _ => rfl) (fun _ _ => rfl) fun a b hb => ?_, smod_rows.dividesByZero⟩
  have small : (a.toInt.tmod b.toInt).natAbs < b.toInt.natAbs :=
    Int.natAbs_tmod a.toInt b.toInt ▸ Nat.mod_lt _ (Int.natAbs_pos.mpr (BitVec.toInt_ne.mpr hb))
  rw [smodOp_of_ne_zero hb]
  exact logicOp_computes
    ⟨a.toInt.tdiv b.toInt, _, (Int.mul_tdiv_add_tmod a.toInt b.toInt).symm, small, tmod_mul_self_nonneg _ _, rfl⟩

/-! ### One semantics for the four instructions (R169) -/

/-- The instruction is a row of a division, with these operands. -/
def IsDivision (i : Instr) (dst src : Operand) : Prop :=
  ∃ op ri rm, DivisionRows op ri rm ∧ Form2 ri rm i dst src

theorem isDivision_of_form {i : Instr} {dst src : Operand}
    (form : Form2 .udivRI .udivRM i dst src ∨ Form2 .umodRI .umodRM i dst src ∨ Form2 .sdivRI .sdivRM i dst src ∨
      Form2 .smodRI .smodRM i dst src) : IsDivision i dst src := by
  rcases form with udiv | umod | sdiv | smod
  · exact ⟨_, _, _, udiv_rows, udiv⟩
  · exact ⟨_, _, _, umod_rows, umod⟩
  · exact ⟨_, _, _, sdiv_rows, sdiv⟩
  · exact ⟨_, _, _, smod_rows, smod⟩

/-- Two divisions on the same operands have the same fields: the source tells the rows apart, and an operand its field. -/
theorem IsDivision.args_eq {i j : Instr} {dst src : Operand} (hi : IsDivision i dst src) (hj : IsDivision j dst src) :
    i.args = j.args := by
  obtain ⟨_, _, _, rowsI, ⟨d, v, rfl, hd, hv⟩ | ⟨d, b, rfl, hd, hb⟩⟩ := hi <;>
    obtain ⟨_, _, _, rowsJ, ⟨e, w, rfl, he, hw⟩ | ⟨e, c, rfl, he, hc⟩⟩ := hj
  · obtain rfl := RegOp.operand_injective (hd.symm.trans he)
    obtain rfl := Operand.imm.inj (hv.symm.trans hw)
    rw [rowsI.argsRI, rowsJ.argsRI]
  · exact (RMOp.operand_ne_imm v c (hc.symm.trans hv)).elim
  · exact (RMOp.operand_ne_imm w b (hb.symm.trans hw)).elim
  · obtain rfl := RMOp.operand_injective (hd.symm.trans he)
    obtain rfl := RMOp.operand_injective (hb.symm.trans hc)
    rw [rowsI.argsRM, rowsJ.argsRM]

theorem IsDivision.length_eq {i j : Instr} {dst src : Operand} (hi : IsDivision i dst src) (hj : IsDivision j dst src) :
    i.length = j.length := by
  rw [Instr.length, Instr.bitLength, hi.args_eq hj, Instr.length, Instr.bitLength]

theorem IsDivision.exec_of_zero {i : Instr} {dst src : Operand} (division : IsDivision i dst src) {s : State} {a : Byte}
    {d : Place} (ready : Ready2 s dst src a 0) (hd : resolve s dst = some d) :
    exec i s = .next (conclude i s (divZeroResult s d)) := by
  obtain ⟨_, _, _, rows, form⟩ := division
  exact rows.exec_of_zero form ready hd

/-- One success ends two instructions of one length in the same registers, flags, memory, `pc` and budget (R103, R104). -/
theorem conclude_success_of_length_eq {i j : Instr} (h : i.length = j.length) (s t : State) (r : Bool) :
    (conclude i s (.success t r)).regs = (conclude j s (.success t r)).regs ∧
      (conclude i s (.success t r)).flags = (conclude j s (.success t r)).flags ∧
      (conclude i s (.success t r)).mem = (conclude j s (.success t r)).mem ∧
      (conclude i s (.success t r)).pc = (conclude j s (.success t r)).pc ∧
      (conclude i s (.success t r)).cycles = (conclude j s (.success t r)).cycles := by
  simp [conclude, h]

/-- Settles O45: each of the four instructions ends in `divZeroResult`, and its length follows from its operands. -/
theorem divisionByZero : Obligations.DivisionByZero := by
  refine ⟨⟨udiv_rows.dividesByZero, umod_rows.dividesByZero, sdiv_rows.dividesByZero, smod_rows.dividesByZero⟩, ?_⟩
  intro i j dst src s t u a formI formJ ready ht hu
  have hi := isDivision_of_form formI
  have hj := isDivision_of_form formJ
  obtain ⟨d, hd, -⟩ := (readOperand_eq_some s dst a).mp ready.1
  obtain rfl := Host.Outcome.next.inj ((hi.exec_of_zero ready hd).symm.trans ht)
  obtain rfl := Host.Outcome.next.inj ((hj.exec_of_zero ready hd).symm.trans hu)
  exact conclude_success_of_length_eq (hi.length_eq hj) ..

end Sys2Proof.Machine
end

section
/-! PROOFS. The statements about control transfer (spec/46_control_transfer.md): the jumps on flags (O46), the jumps on an
ordering, with what each says after `cmp` (O47), and `hlt` (O48). -/

namespace Sys2Proof.Machine

open Sys2Proof

/-! ### The rows of the jumps and their mechanism (R175) -/

/-- What tells one jump from another: its opcode, its condition on `flags` and whether its class is conditional. The one
operand is the displacement, and every jump runs the jump template. -/
structure JumpRow (i : Instr) (rel : Byte) (n : Nat) (cond : Byte → Bool) (ev : FlowEvaluation) : Prop where
  opcode : i.opcode = n
  args : i.args = [.Rel rel]
  flow : ∀ a, getControlFlow a i = jumpFlow ev a rel
  run : ∀ s, exec i s = .next (conclude i s (jump cond rel s))

/-- Taken or not, a jump completes and leaves registers, memory and `flags`. -/
theorem conclude_jump_frame (i : Instr) (cond : Byte → Bool) (rel : Byte) (s : State) :
    Completed s (conclude i s (jump cond rel s)) ∧ LeavesData s (conclude i s (jump cond rel s)) ∧
      (conclude i s (jump cond rel s)).flags = s.flags := by
  rcases jump_cases cond rel s with ⟨-, h⟩ | ⟨-, h⟩ <;> rw [h] <;> simp [Completed, LeavesData, conclude]

section

variable {i : Instr} {rel : Byte} {n : Nat} {cond : Byte → Bool} {ev : FlowEvaluation}

theorem JumpRow.encodeBits_eq (row : JumpRow i rel n cond ev) : encodeBits i = natBits 6 n ++ natBits 8 rel.toNat := by
  simp [encodeBits, row.opcode, row.args, Arg.bits]

/-- An opcode and a displacement fill two bytes (R72). -/
theorem JumpRow.length_eq (row : JumpRow i rel n cond ev) : i.length = 2 := by
  simp [Instr.length, Instr.bitLength, row.args, Arg.width]

theorem JumpRow.cost_eq (row : JumpRow i rel n cond ev) : cost i = 2 := (cost_eq_length i).trans row.length_eq

theorem JumpRow.conclude_pc (row : JumpRow i rel n cond ev) (s : State) :
    (conclude i s (jump cond rel s)).pc = if cond s.flags then s.pc + rel else s.pc + 2 := by
  rw [conclude_jump_pc, nextPc, row.length_eq]
  rfl

/-- A jump's encoding, cost and class, and what it does from every state. -/
theorem JumpRow.spec (row : JumpRow i rel n cond ev) (s : State) :
    encodeBits i = natBits 6 n ++ natBits 8 rel.toNat ∧ cost i = 2 ∧ getControlFlow s.pc i = jumpFlow ev s.pc rel ∧
      ∃ t, exec i s = .next t ∧ Completed s t ∧ LeavesData s t ∧ t.flags = s.flags ∧
        t.pc = if cond s.flags then s.pc + rel else s.pc + 2 := by
  obtain ⟨completed, data, flags⟩ := conclude_jump_frame i cond rel s
  exact ⟨row.encodeBits_eq, row.cost_eq, row.flow s.pc, _, row.run s, completed, data, flags, row.conclude_pc s⟩

/-- A jump is taken exactly where the proposition holds that its condition decides. -/
theorem JumpRow.jumpsWhen (row : JumpRow i rel n cond ev) {t : State} {p : Prop} (h : cond t.flags = true ↔ p) :
    JumpsWhen t rel i p :=
  ⟨_, row.run t, fun hp => (row.conclude_pc t).trans (if_pos (h.mpr hp)),
    fun hp => (row.conclude_pc t).trans (if_neg (mt h.mp hp))⟩

end

/-! ### The jumps on single flags (R176 to R182) -/

theorem jmp_row (rel : Byte) : JumpRow (.jmp rel) rel 33 condJmp .unconditional :=
  ⟨rfl, rfl, fun _ => rfl, fun _ => rfl⟩

theorem jz_row (rel : Byte) : JumpRow (.jz rel) rel 34 condJz .conditional := ⟨rfl, rfl, fun _ => rfl, fun _ => rfl⟩

theorem jnz_row (rel : Byte) : JumpRow (.jnz rel) rel 35 condJnz .conditional := ⟨rfl, rfl, fun _ => rfl, fun _ => rfl⟩

theorem js_row (rel : Byte) : JumpRow (.js rel) rel 36 condJs .conditional := ⟨rfl, rfl, fun _ => rfl, fun _ => rfl⟩

theorem jns_row (rel : Byte) : JumpRow (.jns rel) rel 37 condJns .conditional := ⟨rfl, rfl, fun _ => rfl, fun _ => rfl⟩

theorem jo_row (rel : Byte) : JumpRow (.jo rel) rel 38 condJo .conditional := ⟨rfl, rfl, fun _ => rfl, fun _ => rfl⟩

theorem jno_row (rel : Byte) : JumpRow (.jno rel) rel 39 condJno .conditional := ⟨rfl, rfl, fun _ => rfl, fun _ => rfl⟩

/-- The row of each jump on single flags, its condition the one that the flags byte meets where the jump is taken. -/
theorem FlagJump.jumpRow {rel f : Byte} {i : Instr} {n : Nat} {taken : Bool}
    (h : FlagJump rel (f.getLsbD 0) (f.getLsbD 2) (f.getLsbD 3) i n taken) :
    ∃ cond, JumpRow i rel n cond (if i = .jmp rel then .unconditional else .conditional) ∧ taken = cond f := by
  rcases h with ⟨rfl, rfl, rfl⟩ | ⟨rfl, rfl, rfl⟩ | ⟨rfl, rfl, rfl⟩ | ⟨rfl, rfl, rfl⟩ | ⟨rfl, rfl, rfl⟩ |
    ⟨rfl, rfl, rfl⟩ | ⟨rfl, rfl, rfl⟩
  · exact ⟨condJmp, by simpa using jmp_row rel, rfl⟩
  · exact ⟨condJz, by simpa using jz_row rel, rfl⟩
  · exact ⟨condJnz, by simpa using jnz_row rel, rfl⟩
  · exact ⟨condJs, by simpa using js_row rel, rfl⟩
  · exact ⟨condJns, by simpa using jns_row rel, rfl⟩
  · exact ⟨condJo, by simpa using jo_row rel, rfl⟩
  · exact ⟨condJno, by simpa using jno_row rel, rfl⟩

/-- Settles O46: each of the seven has its row, and `JumpRow.spec` says what a row does. -/
theorem flagJumps : Obligations.FlagJumps := by
  intro i rel n taken s h
  obtain ⟨cond, row, rfl⟩ := h.jumpRow
  exact row.spec s

/-! ### The jumps on an ordering (R183 to R190) -/

theorem jsl_row (rel : Byte) : JumpRow (.jsl rel) rel 40 condJsl .conditional := ⟨rfl, rfl, fun _ => rfl, fun _ => rfl⟩

theorem jsge_row (rel : Byte) : JumpRow (.jsge rel) rel 41 condJsge .conditional :=
  ⟨rfl, rfl, fun _ => rfl, fun _ => rfl⟩

theorem jsle_row (rel : Byte) : JumpRow (.jsle rel) rel 42 condJsle .conditional :=
  ⟨rfl, rfl, fun _ => rfl, fun _ => rfl⟩

theorem jsg_row (rel : Byte) : JumpRow (.jsg rel) rel 43 condJsg .conditional := ⟨rfl, rfl, fun _ => rfl, fun _ => rfl⟩

theorem jul_row (rel : Byte) : JumpRow (.jul rel) rel 44 condJul .conditional := ⟨rfl, rfl, fun _ => rfl, fun _ => rfl⟩

theorem juge_row (rel : Byte) : JumpRow (.juge rel) rel 45 condJuge .conditional :=
  ⟨rfl, rfl, fun _ => rfl, fun _ => rfl⟩

theorem jule_row (rel : Byte) : JumpRow (.jule rel) rel 46 condJule .conditional :=
  ⟨rfl, rfl, fun _ => rfl, fun _ => rfl⟩

theorem jug_row (rel : Byte) : JumpRow (.jug rel) rel 47 condJug .conditional := ⟨rfl, rfl, fun _ => rfl, fun _ => rfl⟩

/-- Signed greater or equal: S is O (R184). -/
theorem not_signedLess (f : Byte) : (!signedLess f) = (flagS f == flagO f) := Bool.not_not _

/-- The row of each jump on an ordering, its condition the one that the flags byte meets where the jump is taken. -/
theorem OrderJump.jumpRow {rel f : Byte} {i : Instr} {n : Nat} {taken : Bool}
    (h : OrderJump rel (f.getLsbD 0) (f.getLsbD 1) (f.getLsbD 2) (f.getLsbD 3) i n taken) :
    ∃ cond, JumpRow i rel n cond .conditional ∧ taken = cond f := by
  rcases h with ⟨rfl, rfl, rfl⟩ | ⟨rfl, rfl, rfl⟩ | ⟨rfl, rfl, rfl⟩ | ⟨rfl, rfl, rfl⟩ | ⟨rfl, rfl, rfl⟩ |
    ⟨rfl, rfl, rfl⟩ | ⟨rfl, rfl, rfl⟩ | ⟨rfl, rfl, rfl⟩
  · exact ⟨condJsl, jsl_row rel, rfl⟩
  · exact ⟨condJsge, jsge_row rel, (not_signedLess f).symm⟩
  · exact ⟨condJsle, jsle_row rel, rfl⟩
  · exact ⟨condJsg, jsg_row rel, congrArg (!flagZ f && ·) (not_signedLess f).symm⟩
  · exact ⟨condJul, jul_row rel, rfl⟩
  · exact ⟨condJuge, juge_row rel, rfl⟩
  · exact ⟨condJule, jule_row rel, rfl⟩
  · exact ⟨condJug, jug_row rel, rfl⟩

/-! ### The flags after `cmp` as an ordering (R148, R183 to R190) -/

/-- Where the exact difference fits a byte, S is its sign; where it does not, S is the other one, and O is set. -/
theorem signedLess_subOp (a b : Byte) : signedLess (subOp a b).2 = true ↔ a.toInt < b.toInt := by
  obtain ⟨-, -, sign, overflow⟩ := flags4_bits (a - b) (decide (a.toNat < b.toNat)) (a.ssubOverflow b)
  have hsign : (a - b).msb = true ↔ (a.toInt - b.toInt).bmod 256 < 0 := by
    rw [BitVec.msb_eq_toInt, BitVec.toInt_sub, decide_eq_true_iff]
  rw [subOp_eq, signedLess, sign, overflow, bit7_eq_msb, bne_iff_ne, ne_eq, Bool.eq_iff_iff, hsign, ssubOverflow_iff,
    Int.bmod_def]
  have := a.toInt_lt
  have := a.le_toInt
  have := b.toInt_lt
  have := b.le_toInt
  omega

theorem flagC_subOp (a b : Byte) : flagC (subOp a b).2 = true ↔ a.toNat < b.toNat := by
  obtain ⟨-, carry, -⟩ := subOp_flagsAre_compare a b
  exact carry

theorem flagZ_subOp (a b : Byte) : flagZ (subOp a b).2 = true ↔ a = b := by
  obtain ⟨zero, -⟩ := subOp_flagsAre_compare a b
  exact zero

theorem condJsge_subOp (a b : Byte) : condJsge (subOp a b).2 = true ↔ b.toInt ≤ a.toInt := by
  rw [condJsge, Bool.not_eq_true', Bool.eq_false_iff, ne_eq, signedLess_subOp, not_lt]

theorem condJsle_subOp (a b : Byte) : condJsle (subOp a b).2 = true ↔ a.toInt ≤ b.toInt := by
  rw [condJsle, Bool.or_eq_true, flagZ_subOp, signedLess_subOp, ← BitVec.toInt_inj, le_iff_eq_or_lt]

theorem condJule_subOp (a b : Byte) : condJule (subOp a b).2 = true ↔ a.toNat ≤ b.toNat := by
  rw [condJule, Bool.or_eq_true, flagC_subOp, flagZ_subOp, ← BitVec.toNat_inj, le_iff_lt_or_eq]

theorem condJuge_subOp (a b : Byte) : condJuge (subOp a b).2 = true ↔ b.toNat ≤ a.toNat := by
  rw [condJuge, Bool.not_eq_true', Bool.eq_false_iff, ne_eq, flagC_subOp, not_lt]

/-- Signed greater is the negation of signed less or equal (R185, R186). -/
theorem condJsg_subOp (a b : Byte) : condJsg (subOp a b).2 = true ↔ b.toInt < a.toInt := by
  rw [← not_le, ← condJsle_subOp, condJsg, condJsle, ← Bool.not_or, Bool.not_eq_true', Bool.not_eq_true]

/-- Unsigned greater is the negation of unsigned less or equal (R189, R190). -/
theorem condJug_subOp (a b : Byte) : condJug (subOp a b).2 = true ↔ b.toNat < a.toNat := by
  rw [← not_le, ← condJule_subOp, condJug, condJule, ← Bool.not_or, Bool.not_eq_true', Bool.not_eq_true]

/-- What `cmp` leaves in `flags`. -/
theorem flags_of_exec_cmp {i : Instr} {dst src : Operand} {s t : State} {a b : Byte}
    (form : Form2 .cmpRI .cmpRM i dst src) (ready : ReadyRead s dst src a b) (h : exec i s = .next t) :
    t.flags = (subOp a b).2 := by
  have rows : RowsRun (execFlagsOnly subOp) .cmpRI .cmpRM := ⟨fun _ _ _ => rfl, fun _ _ _ => rfl⟩
  rw [rows.exec_eq form, execFlagsOnly_of_readyRead subOp ready] at h
  cases h
  simp

/-- Settles O47: `JumpRow.spec` on the row of each of the eight, and the flags of `cmp` read as each ordering. -/
theorem orderJumps : Obligations.OrderJumps := by
  refine ⟨?mechanism, ?afterCmp⟩
  case mechanism =>
    intro i rel n taken s h
    obtain ⟨cond, row, rfl⟩ := h.jumpRow
    exact row.spec s
  case afterCmp =>
    intro i dst src s t a b rel form ready h
    have hflags : t.flags = (subOp a b).2 := flags_of_exec_cmp form ready h
    exact ⟨(jsl_row rel).jumpsWhen (hflags ▸ signedLess_subOp a b),
      (jsge_row rel).jumpsWhen (hflags ▸ condJsge_subOp a b), (jsle_row rel).jumpsWhen (hflags ▸ condJsle_subOp a b),
      (jsg_row rel).jumpsWhen (hflags ▸ condJsg_subOp a b), (jul_row rel).jumpsWhen (hflags ▸ flagC_subOp a b),
      (juge_row rel).jumpsWhen (hflags ▸ condJuge_subOp a b), (jule_row rel).jumpsWhen (hflags ▸ condJule_subOp a b),
      (jug_row rel).jumpsWhen (hflags ▸ condJug_subOp a b)⟩

/-! ### `hlt` (R192) -/

/-- The state after `hlt`: the budget given up, and the success ended as every success is. -/
def afterHlt (s : State) : State := conclude .hlt s (.success { s with cycles := 0 } false)

theorem exec_hlt (s : State) : exec .hlt s = .next (afterHlt s) := rfl

@[simp] theorem afterHlt_outcome (s : State) : (afterHlt s).outcome = some .success := by simp [afterHlt, conclude]
@[simp] theorem afterHlt_cycles (s : State) : (afterHlt s).cycles = 0 := by simp [afterHlt, conclude]
@[simp] theorem afterHlt_pc (s : State) : (afterHlt s).pc = s.pc + 1 := by
  simp [afterHlt, conclude, show Instr.hlt.length = 1 from rfl]
@[simp] theorem afterHlt_regs (s : State) : (afterHlt s).regs = s.regs := by simp [afterHlt, conclude]
@[simp] theorem afterHlt_mem (s : State) : (afterHlt s).mem = s.mem := by simp [afterHlt, conclude]
@[simp] theorem afterHlt_flags (s : State) : (afterHlt s).flags = s.flags := by simp [afterHlt]
@[simp] theorem afterHlt_complete (s : State) : (afterHlt s).complete = s.complete := by simp [afterHlt, conclude]
@[simp] theorem afterHlt_message (s : State) : (afterHlt s).message = s.message := by simp [afterHlt, conclude]
@[simp] theorem afterHlt_ports (s : State) : (afterHlt s).ports = s.ports := by simp [afterHlt]
@[simp] theorem afterHlt_debugger (s : State) : (afterHlt s).debugger = s.debugger := by simp [afterHlt]

/-- With the budget used up nothing can be paid for, so an iteration stops, whatever stands at `pc`; either way it sets
`complete` (R101, R102). -/
theorem step_of_cycles_zero {s : State} (hm : s.debugger.mode = .continue) (hc : s.cycles = 0) :
    ∃ o, step s = .next { s with complete := true, outcome := some o } := by
  cases hf : fetch s with
  | none => exact ⟨_, step_of_fetch_none hm hf⟩
  | some i => exact ⟨_, step_of_cost_gt hm hf (hc ▸ one_le_cost i)⟩

/-- Settles O48: `afterHlt` has the budget 0, on which `step_of_cycles_zero` says what the next iteration does. -/
theorem haltGivesUpBudget : Obligations.HaltGivesUpBudget := by
  refine ⟨rfl, fun _ => rfl, fun s hm => ?_⟩
  have hmode : (afterHlt s).debugger.mode = .continue := by rw [afterHlt_debugger, hm]
  obtain ⟨o, hstep⟩ := step_of_cycles_zero hmode (afterHlt_cycles s)
  refine ⟨afterHlt s, { afterHlt s with complete := true, outcome := some o }, exec_hlt s, ?_⟩
  simp [hstep, LeavesData]

end Sys2Proof.Machine
end

section
/-! PROOFS. The statements about port input and output (spec/47_port_io.md): how `send` (O49) and `recv` (O50) end, what they
ask and give out (O51), that a waiting one asks the same again (O52), and the connections (O54). -/

namespace Sys2Proof.Machine

open Sys2Proof

/-! ### The payload window and its breakpoints (R201, R202, R263) -/

theorem breakpointHit_window_reads (s : State) (off : Byte) (n : Nat) :
    breakpointHit s (windowAddresses off n) [] = false ↔
      ∀ k, k < n → (breakpointAt s (windowByte off k)).read = false := by
  simp [breakpointHit_eq_false, windowAddresses, windowByte]

theorem breakpointHit_window_writes (s : State) (off : Byte) (n : Nat) :
    breakpointHit s [] (windowAddresses off n) = false ↔
      ∀ k, k < n → (breakpointAt s (windowByte off k)).write = false := by
  simp [breakpointHit_eq_false, windowAddresses, windowByte]

/-- An answer of at most 255 bytes is the payload as it stands (R203). -/
theorem payloadOf_of_length_le {payload : List Byte} (h : payload.length ≤ 255) : payloadOf payload = payload :=
  List.take_of_length_le h

/-- The stored window reads as the payload, byte for byte; no two of its addresses wrap onto each other (R202). -/
theorem Memory.read_store_window (m : Memory) (off : Byte) {payload : List Byte} (hlen : payload.length ≤ 255) (k : Nat)
    (h : k < payload.length) : (m.store off payload).read (windowByte off k) = payload[k] := by
  have hk : (windowByte off k - off).toNat = k := by
    simp only [windowByte]
    bv_omega
  rw [Memory.read_store m off payload _ (by omega), hk, List.getD_eq_getElem payload _ h]

theorem Memory.read_store_outside (m : Memory) (off : Byte) {payload : List Byte} (hlen : payload.length ≤ 255) {a : Byte}
    (h : payload.length ≤ (a - off).toNat) : (m.store off payload).read a = m.read a := by
  rw [Memory.read_store m off payload _ (by omega), List.getD_eq_default payload _ h]

/-! ### The pending message and its request (R203, R204) -/

theorem samePending_iff (m : Message) (kind : MessageStatus) (port off size : Byte) :
    samePending m kind port off size = true ↔ m.status = kind ∧ m.port = port ∧ m.offset = off ∧ m.size = size := by
  simp [samePending, and_assoc]

@[simp] theorem post_message_eq_pendingMessage (s : State) (kind : MessageStatus) (port off size : Byte) :
    (post kind port off size s).message = pendingMessage s kind port off size := by
  simp only [post_message, pendingMessage, requestStamp, samePending_iff]

/-- What is pending already is stamped as it was (R204). -/
theorem requestStamp_of_pending {s t : State} {kind : MessageStatus} {port off size : Byte}
    (h : t.message = pendingMessage s kind port off size) :
    requestStamp t kind port off size = requestStamp s kind port off size := by
  rw [requestStamp, h]
  exact if_pos ⟨rfl, rfl, rfl, rfl⟩

/-- A `send`'s message posted and its request given out. -/
abbrev sendPosted (s : State) (port size off : Byte) : State :=
  asked (sendRequest s port size off) (post .sendPending port off size s)

/-- A `recv`'s message posted and its request given out. -/
abbrev recvPosted (s : State) (port off : Byte) : State :=
  asked (recvRequest s port off) (post .receivePending port off 0 s)

/-! ### How a handshake ends a port operation (R205, R207) -/

theorem applyWait_eq (w : Nat) (s : State) :
    (applyWait w s).cycles = s.cycles - (w + s.message.wait) ∧
      (applyWait w s).message = { s.message with wait := w + s.message.wait - s.cycles } := by
  rcases applyWait_cases w s with ⟨hle, hcycles, hmessage⟩ | ⟨hlt, hcycles, hmessage⟩
  · exact ⟨hcycles, by rw [hmessage, Nat.sub_eq_zero_of_le hle]⟩
  · exact ⟨by omega, hmessage⟩

@[simp] theorem finishPort_cycles (w : Nat) (s : State) :
    (finishPort w s).cycles = s.cycles - (w + s.message.wait) :=
  (applyWait_eq w _).1

@[simp] theorem finishPort_message_eq (w : Nat) (s : State) :
    (finishPort w s).message = { s.message with status := .idle, wait := w + s.message.wait - s.cycles } :=
  (applyWait_eq w _).2

@[simp] theorem acceptPayload_message (off : Byte) (payload : List Byte) (s : State) :
    (acceptPayload off payload s).message =
      { s.message with offset := off, size := BitVec.ofNat 8 payload.length } := rfl

/-! ### The three ways a `send` ends (R201, R206, R263) -/

section

variable {s : State} {port size off : Byte}

theorem sendWindow_of_hit (hit : ∃ k, k < size.toNat ∧ (breakpointAt s (windowByte off k)).read = true) :
    sendWindow port size off s = .stall (setDebugMode .pause s) := by
  obtain ⟨k, hk, hread⟩ := hit
  rcases sendWindow_cases port size off s with ⟨-, h⟩ | ⟨r, -, clear, -⟩
  · exact h
  · cases hread.symm.trans ((breakpointHit_window_reads s off _).mp clear k hk)

/-- A `send` that no breakpoint stops asks its request, and the answer alone decides how it ends. -/
theorem sendWindow_of_clear (clear : ∀ k, k < size.toNat → (breakpointAt s (windowByte off k)).read = false) :
    (∃ w payload, answerOf (sendRequest s port size off) s = .success w payload ∧
        sendWindow port size off s = .success (finishPort w (sendPosted s port size off)) false) ∨
      (∀ w payload, answerOf (sendRequest s port size off) s ≠ .success w payload) ∧
        sendWindow port size off s = .stall (sendPosted s port size off) := by
  rcases sendWindow_cases port size off s with ⟨hit, -⟩ | ⟨r, hr, -, ends⟩
  · cases hit.symm.trans ((breakpointHit_window_reads s off _).mpr clear)
  · obtain rfl : r = sendRequest s port size off := by rw [hr, post_message_eq_pendingMessage]; rfl
    simpa only [answerOf_post] using ends

theorem sendWindow_of_success (clear : ∀ k, k < size.toNat → (breakpointAt s (windowByte off k)).read = false) {w : Nat}
    {payload : List Byte} (answer : answerOf (sendRequest s port size off) s = .success w payload) :
    sendWindow port size off s = .success (finishPort w (sendPosted s port size off)) false := by
  rcases sendWindow_of_clear (port := port) clear with ⟨w', payload', answer', h⟩ | ⟨refused, -⟩
  · cases answer.symm.trans answer'
    exact h
  · exact absurd answer (refused w payload)

theorem sendWindow_of_refused (clear : ∀ k, k < size.toNat → (breakpointAt s (windowByte off k)).read = false)
    (refused : ∀ w payload, answerOf (sendRequest s port size off) s ≠ .success w payload) :
    sendWindow port size off s = .stall (sendPosted s port size off) := by
  rcases sendWindow_of_clear (port := port) clear with ⟨w, payload, answer, -⟩ | ⟨-, h⟩
  · exact absurd answer (refused w payload)
  · exact h

end

/-! ### The three ways a `recv` ends (R202, R206, R263) -/

section

variable {s : State} {port off : Byte}

theorem recvWindow_of_refused (refused : ∀ w payload, answerOf (recvRequest s port off) s ≠ .success w payload) :
    recvWindow port off s = .stall (recvPosted s port off) := by
  obtain ⟨r, hr, ends⟩ := recvWindow_cases port off s
  obtain rfl : r = recvRequest s port off := by rw [hr, post_message_eq_pendingMessage]; rfl
  simp only [answerOf_post] at ends
  rcases ends with ⟨w, payload, answer, -⟩ | ⟨-, h⟩
  · exact absurd answer (refused w payload)
  · exact h

/-- The window's breakpoints are tested when the payload is there, and a hit leaves the request pending. -/
theorem recvWindow_of_success {w : Nat} {payload : List Byte}
    (answer : answerOf (recvRequest s port off) s = .success w payload) :
    recvWindow port off s =
      if breakpointHit s [] (windowAddresses off (payloadOf payload).length) then
        .stall (setDebugMode .pause (recvPosted s port off))
      else .success (finishPort w (acceptPayload off (payloadOf payload) (recvPosted s port off))) false := by
  obtain ⟨r, hr, ends⟩ := recvWindow_cases port off s
  obtain rfl : r = recvRequest s port off := by rw [hr, post_message_eq_pendingMessage]; rfl
  simp only [answerOf_post] at ends
  rcases ends with ⟨w', payload', answer', ends⟩ | ⟨refused, -⟩
  · cases answer.symm.trans answer'
    rcases ends with ⟨hit, h⟩ | ⟨clear, h⟩
    · rw [h, if_pos hit]
    · rw [h, clear, if_neg Bool.false_ne_true]
  · exact absurd answer (refused w payload)

theorem recvWindow_of_clear {w : Nat} {payload : List Byte}
    (answer : answerOf (recvRequest s port off) s = .success w payload) (hlen : payload.length ≤ 255)
    (clear : ∀ k, k < payload.length → (breakpointAt s (windowByte off k)).write = false) :
    recvWindow port off s = .success (finishPort w (acceptPayload off payload (recvPosted s port off))) false := by
  rw [recvWindow_of_success answer, payloadOf_of_length_le hlen, (breakpointHit_window_writes s off _).mpr clear,
    if_neg Bool.false_ne_true]

theorem recvWindow_of_hit {w : Nat} {payload : List Byte}
    (answer : answerOf (recvRequest s port off) s = .success w payload) (hlen : payload.length ≤ 255)
    (hit : ∃ k, k < payload.length ∧ (breakpointAt s (windowByte off k)).write = true) :
    recvWindow port off s = .stall (setDebugMode .pause (recvPosted s port off)) := by
  obtain ⟨k, hk, hwrite⟩ := hit
  have hhit : breakpointHit s [] (windowAddresses off payload.length) = true := by
    refine Bool.eq_true_of_not_eq_false fun clear => ?_
    cases hwrite.symm.trans ((breakpointHit_window_writes s off _).mp clear k hk)
  rw [recvWindow_of_success answer, payloadOf_of_length_le hlen, if_pos hhit]

/-- A `recv` completes on an accepted request, or stalls with its message posted, the debugger paused or as it was. -/
theorem recvWindow_ends (s : State) (port off : Byte) :
    (∃ w payload, recvWindow port off s =
        .success (finishPort w (acceptPayload off payload (recvPosted s port off))) false) ∨
      recvWindow port off s = .stall (recvPosted s port off) ∨
      recvWindow port off s = .stall (setDebugMode .pause (recvPosted s port off)) := by
  by_cases answered : ∃ w payload, answerOf (recvRequest s port off) s = .success w payload
  · obtain ⟨w, payload, answer⟩ := answered
    rw [recvWindow_of_success answer]
    split
    · exact .inr (.inr rfl)
    · exact .inl ⟨w, _, rfl⟩
  · push Not at answered
    exact .inr (.inl (recvWindow_of_refused answered))

end

/-! ### The rows of `send` and `recv` -/

/-- The bits of a row with two fields. -/
theorem encodeBits_of_args2 {i : Instr} {a b : Arg} (h : i.args = [a, b]) :
    encodeBits i = natBits 6 i.opcode ++ (a.bits ++ b.bits) := by
  simp [encodeBits, h]

/-- The bits of a row with three fields. -/
theorem encodeBits_of_args3 {i : Instr} {a b c : Arg} (h : i.args = [a, b, c]) :
    encodeBits i = natBits 6 i.opcode ++ (a.bits ++ (b.bits ++ c.bits)) := by
  simp [encodeBits, h]

section

variable {i : Instr} {port size : Operand} {win : MemOp} {s : State} {p z : Byte}

theorem FormSend.flow (form : FormSend i port size win) (a : Byte) : getControlFlow a i = ioFlow := by
  rcases form with ⟨_, _, rfl, -⟩ | ⟨_, _, rfl, -⟩ | ⟨_, _, rfl, -⟩ | ⟨_, _, rfl, -⟩ <;> rfl

/-- Every row of `send` runs the one template on its operands. -/
theorem FormSend.exec_eq (form : FormSend i port size win) (s : State) :
    exec i s = .next (conclude i s (sendOperands port size win s)) := by
  rcases form with ⟨_, _, rfl, rfl, rfl⟩ | ⟨_, _, rfl, rfl, rfl⟩ | ⟨_, _, rfl, rfl, rfl⟩ | ⟨_, _, rfl, rfl, rfl⟩ <;> rfl

theorem FormSend.exec_of_naInvalid (form : FormSend i port size win) (h : port = .naInvalid ∨ size = .naInvalid)
    (s : State) : exec i s = .next (concludeFail s) := by
  rw [form.exec_eq]
  rcases sendOperands_cases port size win s with hfail | ⟨p, z, hp, hz, -⟩
  · rw [hfail]
    rfl
  · exact (h.elim (ne_naInvalid_of_readOperand hp) (ne_naInvalid_of_readOperand hz)).elim

theorem FormSend.exec_of_read (form : FormSend i port size win) (hp : readOperand s port = some p)
    (hz : readOperand s size = some z) :
    exec i s = .next (conclude i s (sendWindow p z (effectiveAddress s win) s)) := by
  simp [form.exec_eq, sendOperands, hp, hz]

theorem FormRecv.flow (form : FormRecv i port win) (a : Byte) : getControlFlow a i = ioFlow := by
  rcases form with ⟨_, rfl, -⟩ | ⟨_, rfl, -⟩ <;> rfl

/-- Both rows of `recv` run the one template on their operands. -/
theorem FormRecv.exec_eq (form : FormRecv i port win) (s : State) :
    exec i s = .next (conclude i s (recvOperands port win s)) := by
  rcases form with ⟨_, rfl, rfl⟩ | ⟨_, rfl, rfl⟩ <;> rfl

theorem FormRecv.exec_of_naInvalid (form : FormRecv i port win) (h : port = .naInvalid) (s : State) :
    exec i s = .next (concludeFail s) := by
  rw [form.exec_eq]
  rcases recvOperands_cases port win s with hfail | ⟨p, hp, -⟩
  · rw [hfail]
    rfl
  · exact (ne_naInvalid_of_readOperand hp h).elim

theorem FormRecv.exec_of_read (form : FormRecv i port win) (hp : readOperand s port = some p) :
    exec i s = .next (conclude i s (recvWindow p (effectiveAddress s win) s)) := by
  simp [form.exec_eq, recvOperands, hp]

end

/-! ### Completion and waiting (R103, R205, R206) -/

theorem portDone_send (i : Instr) (s : State) (p z off : Byte) (w : Nat) :
    PortDone i s (conclude i s (.success (finishPort w (sendPosted s p z off)) false)) p off z
      (requestStamp s .sendPending p off z) w := by
  simp [PortDone, conclude, pendingMessage, nextPc]

theorem portDone_recv (i : Instr) (s : State) (p off : Byte) (payload : List Byte) (w : Nat) :
    PortDone i s (conclude i s (.success (finishPort w (acceptPayload off payload (recvPosted s p off))) false)) p off
      (BitVec.ofNat 8 payload.length) (requestStamp s .receivePending p off 0) w := by
  simp [PortDone, conclude, pendingMessage, nextPc]

theorem waits_of_posted (i : Instr) (s : State) (r : PortRequest) (kind : MessageStatus) (port off size : Byte) :
    Waits i s (conclude i s (.stall (asked r (post kind port off size s)))) := by
  simp [Waits, LeavesData, conclude]

theorem waits_of_posted_setPause (i : Instr) (s : State) (r : PortRequest) (kind : MessageStatus)
    (port off size : Byte) :
    Waits i s (conclude i s (.stall (setDebugMode .pause (asked r (post kind port off size s))))) := by
  simp [Waits, LeavesData, conclude]

/-- Settles O49: `encodeBits_of_args3` for the encodings, and `sendWindow_of_hit`, `sendWindow_of_success` and
`sendWindow_of_refused` for the three ways a `send` with its operands read ends. -/
theorem sendResult : Obligations.SendResult := by
  refine ⟨⟨fun p z m => encodeBits_of_args3 (a := .R p) (b := .R z) (c := .M m) rfl,
    fun p v m => encodeBits_of_args3 (a := .R p) (b := .I v) (c := .M m) rfl,
    fun v z m => encodeBits_of_args3 (a := .I v) (b := .R z) (c := .M m) rfl,
    fun v w m => encodeBits_of_args3 (a := .I v) (b := .I w) (c := .M m) rfl⟩, fun i port size win s form =>
    ⟨form.flow s.pc, fun hinv => form.exec_of_naInvalid hinv s, fun p z hp hz => ?_⟩⟩
  rw [form.exec_of_read hp hz]
  refine ⟨fun hit => ?breakpoint, fun clear => ⟨fun w payload answer => ?accepted, fun refused => ?waiting⟩⟩
  case breakpoint =>
    rw [sendWindow_of_hit hit]
    exact ⟨_, rfl, waits_of_setPause i s, by simp [conclude], by simp [conclude], by simp [conclude]⟩
  case accepted =>
    rw [sendWindow_of_success clear answer]
    exact ⟨_, rfl, portDone_send i s p z _ w, by simp [conclude]⟩
  case waiting =>
    rw [sendWindow_of_refused clear refused]
    exact ⟨_, rfl, waits_of_posted .., by simp [conclude], by simp [conclude]⟩

/-- Settles O50: `encodeBits_of_args2` for the encodings, and `recvWindow_of_clear`, `recvWindow_of_hit` and
`recvWindow_of_refused` for the three ways a `recv` with its port read ends. -/
theorem recvResult : Obligations.RecvResult := by
  refine ⟨⟨fun p m => encodeBits_of_args2 (a := .R p) (b := .M m) rfl,
    fun v m => encodeBits_of_args2 (a := .I v) (b := .M m) rfl⟩, fun i port win s form =>
    ⟨form.flow s.pc, fun hinv => form.exec_of_naInvalid hinv s, fun p hp => ?_⟩⟩
  rw [form.exec_of_read hp]
  refine ⟨fun w payload answer hlen => ⟨fun clear => ?accepted, fun hit => ?breakpoint⟩, fun refused => ?waiting⟩
  case accepted =>
    rw [recvWindow_of_clear answer hlen clear]
    refine ⟨_, rfl, portDone_recv i s p _ payload w, fun k hk => ?_, fun a ha => ?_⟩
    · simpa [conclude] using Memory.read_store_window s.mem _ hlen k hk
    · simpa [conclude] using Memory.read_store_outside s.mem _ hlen ha
  case breakpoint =>
    rw [recvWindow_of_hit answer hlen hit]
    exact ⟨_, rfl, waits_of_posted_setPause .., by simp [conclude], by simp [conclude]⟩
  case waiting =>
    rw [recvWindow_of_refused refused]
    exact ⟨_, rfl, waits_of_posted .., by simp [conclude], by simp [conclude]⟩

/-! ### What is given to the outside (R103, R203, R262; log entries 5, 10, 11) -/

@[simp] theorem conclude_asked (i : Instr) (s : State) (R : Result) :
    (conclude i s R).env.asked = R.state.env.asked := by
  cases R <;> simp [conclude]
@[simp] theorem conclude_script (i : Instr) (s : State) (R : Result) :
    (conclude i s R).env.script = R.state.env.script := by
  cases R <;> simp [conclude]

/-- A success adds the operation hook's call, if the hook is set, and nothing else (R103). -/
theorem conclude_success_outputs {i : Instr} {s t : State} {b : Bool} (h : t.debugger = s.debugger) :
    (conclude i s (.success t b)).env.outputs = hookCall i s ++ t.env.outputs := by
  simp only [conclude, concludeSuccess_outputs, hookCall, decodedAt, h]
  split <;> rfl

/-- Setting the mode calls `debugModeChange` where that changes the debugger's part and the hook is set (R262). -/
theorem setDebugMode_outputs (m : DebugMode) {s t : State} (h : t.debugger = s.debugger) :
    (setDebugMode m t).env.outputs =
      (if (setDebugMode m t).debugger = s.debugger then []
        else if s.debugger.hooks.debugModeChange then [.debugModeChange m] else []) ++ t.env.outputs := by
  rw [← h]
  by_cases hm : t.debugger.mode = m
  · simp [setDebugMode, hm]
  · have changed : (setDebugMode m t).debugger ≠ t.debugger := fun heq => hm (by rw [← heq, setDebugMode_mode])
    rw [if_neg changed, setDebugMode, if_neg hm, emitIf_outputs]
    split <;> rfl

/-- Settles O51: `sendWindow_of_clear` and `recvWindow_ends` leave the one request asked; what is given out behind it is the
operation hook's call on a success, and on a pause what `setDebugMode_outputs` says. -/
theorem portRequestsGivenOut : Obligations.PortRequestsGivenOut := by
  refine ⟨?send, ?recv⟩
  case send =>
    intro i port size win s p z form hp hz clear
    rw [form.exec_of_read hp hz]
    refine ⟨_, rfl, ?_⟩
    rcases sendWindow_of_clear (port := p) clear with ⟨w, payload, -, h⟩ | ⟨-, h⟩ <;> rw [h]
    · simp [conclude_success_outputs, conclude_outcome_success]
    · simp [conclude]
  case recv =>
    intro i port win s p form hp
    rw [form.exec_of_read hp]
    refine ⟨_, rfl, ?asked, ?script, ?outputs, fun refused => ?waiting, fun w payload k answer hlen hk hwrite => ?paused⟩
    case asked =>
      rcases recvWindow_ends s p (effectiveAddress s win) with ⟨w, payload, h⟩ | h | h <;> simp [h]
    case script =>
      rcases recvWindow_ends s p (effectiveAddress s win) with ⟨w, payload, h⟩ | h | h <;> simp [h]
    case outputs =>
      rcases recvWindow_ends s p (effectiveAddress s win) with ⟨w, payload, h⟩ | h | h <;> rw [h]
      · simp [conclude_success_outputs, conclude_outcome_success]
      · simp [conclude]
      · rw [if_neg (by simp [conclude])]
        exact (setDebugMode_outputs .pause (s := s) (by simp)).trans (congrArg _ (by simp))
    case waiting =>
      rw [recvWindow_of_refused refused]
      exact ⟨rfl, by simp⟩
    case paused =>
      rw [recvWindow_of_hit answer hlen ⟨k, hk, hwrite⟩]
      exact ⟨rfl, by simp⟩

/-! ### A waiting instruction asks the same again (R204, R206, R263) -/

theorem SameData.readOperand_eq {s t : State} (h : SameData s t) (o : Operand) : readOperand s o = readOperand t o := by
  simp only [readOperand, h.resolve_eq]
  exact congrArg (Option.map · _) (funext h.readPlace_eq)

theorem SameData.effectiveAddress_eq {s t : State} (h : SameData s t) (m : MemOp) :
    effectiveAddress s m = effectiveAddress t m := by
  cases m <;> simp [effectiveAddress, h.regs]

/-- The message of a request is posted, and the data are as they were. -/
structure Posted (kind : MessageStatus) (port off size : Byte) (s t : State) : Prop where
  data : SameData t s
  message : t.message = pendingMessage s kind port off size

section

variable {kind : MessageStatus} {port off size : Byte} {s t : State}

theorem Posted.withCycles (h : Posted kind port off size s t) (c : Nat) :
    Posted kind port off size s { t with cycles := c } :=
  ⟨⟨h.data.regs, h.data.flags, h.data.mem, h.data.pc, h.data.breakpoints⟩, h.message⟩

theorem posted_asked (kind : MessageStatus) (port off size : Byte) (s : State) (r : PortRequest) :
    Posted kind port off size s (asked r (post kind port off size s)) := by
  constructor
  · constructor <;> simp
  · simp

theorem Posted.setPause (h : Posted kind port off size s t) :
    Posted kind port off size s (setDebugMode .pause t) := by
  constructor
  · constructor <;> simp [h.data.regs, h.data.flags, h.data.mem, h.data.pc, h.data.breakpoints]
  · simp [h.message]

/-- A stall refunds the cost and records the outcome, nothing else (R103). -/
theorem Posted.stall (h : Posted kind port off size s t) (i : Instr) :
    Posted kind port off size s (conclude i s (.stall t)) :=
  ⟨⟨h.data.regs, h.data.flags, h.data.mem, h.data.pc, h.data.breakpoints⟩, h.message⟩

theorem Posted.sendRequest_eq (h : Posted .sendPending port off size s t) :
    sendRequest t port size off = sendRequest s port size off := by
  simp only [sendRequest, h.data.mem, requestStamp_of_pending h.message]

theorem Posted.recvRequest_eq (h : Posted .receivePending port off 0 s t) :
    recvRequest t port off = recvRequest s port off := by
  simp only [recvRequest, requestStamp_of_pending h.message]

end

/-- A `send` that stalls with the debugger not pausing has its message posted: on a breakpoint it would have paused. -/
theorem posted_of_send_stall {i : Instr} {port size : Operand} {win : MemOp} {s t : State} {p z : Byte}
    (form : FormSend i port size win) (hp : readOperand s port = some p) (hz : readOperand s size = some z)
    (ht : exec i s = .next t) (stalled : t.outcome = some .stall) (mode : t.debugger.mode ≠ .pause) :
    Posted .sendPending p (effectiveAddress s win) z s t := by
  obtain rfl := Host.Outcome.next.inj ((form.exec_of_read hp hz).symm.trans ht)
  by_cases hit : ∃ k, k < z.toNat ∧ (breakpointAt s (windowByte (effectiveAddress s win) k)).read = true
  · rw [sendWindow_of_hit hit] at mode
    exact absurd (by simp) mode
  · have clear : ∀ k, k < z.toNat → (breakpointAt s (windowByte (effectiveAddress s win) k)).read = false :=
      fun k hk => Bool.eq_false_iff.mpr fun hread => hit ⟨k, hk, hread⟩
    rcases sendWindow_of_clear (port := p) clear with ⟨w, payload, -, h⟩ | ⟨-, h⟩ <;> rw [h] at stalled ⊢
    · cases stalled
    · exact (posted_asked ..).stall i

/-- A `recv` that stalls has its message posted, whatever stalled it. -/
theorem posted_of_recv_stall {i : Instr} {port : Operand} {win : MemOp} {s t : State} {p : Byte}
    (form : FormRecv i port win) (hp : readOperand s port = some p) (ht : exec i s = .next t)
    (stalled : t.outcome = some .stall) : Posted .receivePending p (effectiveAddress s win) 0 s t := by
  obtain rfl := Host.Outcome.next.inj ((form.exec_of_read hp).symm.trans ht)
  rcases recvWindow_ends s p (effectiveAddress s win) with ⟨w, payload, h⟩ | h | h <;> rw [h] at stalled ⊢
  · cases stalled
  · exact (posted_asked ..).stall i
  · exact (posted_asked ..).setPause.stall i

/-- Settles O52: with its message posted and the data as they were, an instruction reads and asks the same, on any budget. -/
theorem retryRepeatsRequest : Obligations.RetryRepeatsRequest := by
  refine ⟨?send, ?recv⟩
  case send =>
    intro i port size win s t p z form hp hz ht stalled same running c
    have posted := (posted_of_send_stall form hp hz ht stalled (by simp [same, running])).withCycles c
    rw [posted.data.readOperand_eq, posted.data.readOperand_eq, posted.data.effectiveAddress_eq]
    exact ⟨hp, hz, posted.sendRequest_eq⟩
  case recv =>
    intro i port win s t p form hp ht stalled c
    have posted := (posted_of_recv_stall form hp ht stalled).withCycles c
    rw [posted.data.readOperand_eq, posted.data.effectiveAddress_eq]
    exact ⟨hp, posted.recvRequest_eq⟩

/-! ### Connections (R209, R283) -/

@[simp] theorem disconnect_debugger (p : Byte) (s : State) : (disconnect p s).debugger = s.debugger := by
  unfold disconnect
  split <;> simp [setPort]

/-- The calls of `portConnectionChange`, newest first, that disconnecting the ports of a list in its order makes: one for
each that has a connection. -/
def disconnectCalls (s : State) (ports : List Byte) : List Output :=
  if s.debugger.hooks.portConnectionChange then
    ((ports.filter fun x => (getPort s x).isSome).map Output.portConnectionChange).reverse
  else []

theorem disconnect_outputs (p : Byte) (s : State) :
    (disconnect p s).env.outputs = disconnectCalls s [p] ++ s.env.outputs := by
  cases h : getPort s p with
  | none => simp [disconnect, disconnectCalls, h]
  | some c =>
    simp only [disconnect, disconnectCalls, setPort, emitIf_outputs, h]
    split <;> simp [h]

theorem disconnectCalls_cons (s : State) (p : Byte) (ports : List Byte) :
    disconnectCalls s (p :: ports) = disconnectCalls s ports ++ disconnectCalls s [p] := by
  unfold disconnectCalls
  split
  · cases h : (getPort s p).isSome <;> simp [h]
  · rfl

/-- Disconnecting one port does not change the calls for the others. -/
theorem disconnectCalls_disconnect {p : Byte} {ports : List Byte} (h : p ∉ ports) (s : State) :
    disconnectCalls (disconnect p s) ports = disconnectCalls s ports := by
  have hfilter : (ports.filter fun x => (getPort (disconnect p s) x).isSome) =
      ports.filter fun x => (getPort s x).isSome :=
    List.filter_congr fun x hx => by rw [getPort_disconnect, if_neg (ne_of_mem_of_not_mem hx h)]
  simp only [disconnectCalls, disconnect_debugger, hfilter]

theorem disconnectCalls_nodup (s : State) {ports : List Byte} (h : ports.Nodup) : (disconnectCalls s ports).Nodup := by
  unfold disconnectCalls
  split
  · exact List.nodup_reverse.mpr ((h.filter _).map fun _ _ => Output.portConnectionChange.inj)
  · exact List.nodup_nil

theorem mem_disconnectCalls (s : State) (ports : List Byte) (o : Output) :
    o ∈ disconnectCalls s ports ↔
      s.debugger.hooks.portConnectionChange = true ∧
        ∃ x ∈ ports, o = .portConnectionChange x ∧ getPort s x ≠ none := by
  unfold disconnectCalls
  split
  · next hook => simp [hook, Option.isSome_iff_ne_none, eq_comm (a := o), and_assoc, and_comm]
  · next hook => simp [hook]

/-- The ports disconnected one after the other. -/
def disconnectEach (ports : List Byte) (s : State) : State := ports.foldl (fun t p => disconnect p t) s

@[simp] theorem disconnectEach_nil (s : State) : disconnectEach [] s = s := rfl
@[simp] theorem disconnectEach_cons (p : Byte) (ports : List Byte) (s : State) :
    disconnectEach (p :: ports) s = disconnectEach ports (disconnect p s) := rfl

theorem getPort_disconnectEach (ports : List Byte) (q : Byte) (s : State) :
    getPort (disconnectEach ports s) q = if q ∈ ports then none else getPort s q := by
  induction ports generalizing s with
  | nil => simp
  | cons p ports ih =>
    rw [disconnectEach_cons, ih, getPort_disconnect]
    by_cases hq : q ∈ ports <;> simp [hq]

theorem disconnectEach_outputs {ports : List Byte} (h : ports.Nodup) (s : State) :
    (disconnectEach ports s).env.outputs = disconnectCalls s ports ++ s.env.outputs := by
  induction ports generalizing s with
  | nil => simp [disconnectCalls]
  | cons p ports ih =>
    obtain ⟨hp, hports⟩ := List.nodup_cons.mp h
    rw [disconnectEach_cons, ih hports, disconnectCalls_disconnect hp, disconnect_outputs,
      disconnectCalls_cons s p ports, List.append_assoc]

/-- The port ids, in rising order. -/
def allPorts : List Byte := (List.range 256).map (BitVec.ofNat 8)

theorem mem_allPorts (x : Byte) : x ∈ allPorts :=
  List.mem_map.mpr ⟨x.toNat, List.mem_range.mpr x.isLt, BitVec.ofNat_toNat _ x⟩

theorem allPorts_nodup : allPorts.Nodup := by
  refine List.Nodup.map_on (fun m hm n hn h => ?_) List.nodup_range
  have := congrArg BitVec.toNat h
  simp only [List.mem_range, BitVec.toNat_ofNat] at *
  omega

theorem disconnectAll_eq (s : State) : disconnectAll s = disconnectEach allPorts s := by
  rw [disconnectAll, disconnectEach, allPorts, List.foldl_map]

/-- Settles O54: `Destroy` disconnects each of all ports once, and `disconnectCalls` lists the calls that makes. -/
theorem connectAndDisconnect : Obligations.ConnectAndDisconnect := by
  intro s p q c
  refine ⟨?connected, ?disconnected, ?twice, fun hq => ?others, ?all, ?calls, ?ended⟩
  case connected => rw [connect, getPort_setPort, if_pos rfl]
  case disconnected => rw [getPort_disconnect, if_pos rfl]
  case twice => exact disconnect_of_none p _ (by rw [getPort_disconnect, if_pos rfl])
  case others => rw [connect, getPort_setPort, if_neg hq, getPort_disconnect, if_neg hq]; exact ⟨rfl, rfl⟩
  case all => rw [disconnectAll_eq, getPort_disconnectEach, if_pos (mem_allPorts p)]
  case calls =>
    refine ⟨disconnectCalls s allPorts, ?_, disconnectCalls_nodup s allPorts_nodup, fun o => ?_⟩
    · rw [← disconnectEach_outputs allPorts_nodup, ← disconnectAll_eq]
      rfl
    · simp [mem_disconnectCalls, mem_allPorts]
  case ended =>
    intro P hP
    cases hP
    exact ⟨fun op => rfl, fun x => rfl⟩

end Sys2Proof.Machine
end

section
/-! PROOFS. The statements about the execution-graph builder (spec/50_execution_graph.md): every call keeps how the blocks lie
(O55), where references lead (O56) and where blocks end (O57), it terminates (O58) and answers the block of its address (O59,
O60). `Runs` says once what a call that is not refused does; each of the first three is an induction over it. -/

namespace Sys2Proof.Machine

open Sys2Proof

/-! ### Ranges of addresses -/

/-- An address is in the first or in the second of two ranges that stand one behind the other exactly where it is in their
union, as long as that does not run round into itself (R231). -/
theorem range_append (a s : Byte) {k l : Nat} (h : k + l ≤ 256) :
    (a - s).toNat < k + l ↔ (a - s).toNat < k ∨ (a - (s + BitVec.ofNat 8 k)).toNat < l := by
  have hsub : a - (s + BitVec.ofNat 8 k) = (a - s) - BitVec.ofNat 8 k := sub_add_eq_sub_sub a s _
  rw [hsub]
  generalize a - s = d
  rw [BitVec.toNat_sub, BitVec.toNat_ofNat]
  have := d.isLt
  omega

/-! ### Decoded instructions as the builder sees them (R226, R227) -/

/-- The walk of a block ends behind the instruction (R226). -/
def Decoded.stops (st : Decoded) : Bool :=
  decide ((getControlFlow st.offset st.instr).effect = .pause) ||
    (decide ((getControlFlow st.offset st.instr).effect = .branch) &&
      decide ((getControlFlow st.offset st.instr).evaluation = .unconditional))

theorem Node.stops_iff (n : Node) : n.Stops ↔ n.state.stops = true := by
  simp [Node.Stops, Decoded.stops]

/-- The target of a jump, which is known from its bytes (R227). -/
def Decoded.target (st : Decoded) : Option Byte := Node.target { state := st, jump := none }

theorem Node.target_eq (n : Node) : n.target = n.state.target := rfl

/-- The decoded state of an instruction at an address. -/
def decodedState (i : Instr) (a : Byte) : Decoded := { instr := i, offset := a, length := i.length }

@[simp] theorem decodedState_length (i : Instr) (a : Byte) : (decodedState i a).length = i.length := rfl

theorem instr_length_pos (i : Instr) : 0 < i.length := (Laws.Length.all i).2.2.1

/-! ### A block and its decoded states -/

/-- The decoded states of a block's nodes in order: all of the nodes but their references. -/
def Block.states (b : Block) : List Decoded := b.nodes.map Node.state

/-- The address behind a block. -/
def Block.finish (b : Block) : Byte := b.start + BitVec.ofNat 8 b.length

theorem Block.hasNode_iff (b : Block) (a : Byte) : b.hasNode a = true ↔ ∃ st ∈ b.states, st.offset = a := by
  simp [Block.hasNode, Block.states]

theorem Block.covers_iff (b : Block) (a : Byte) : b.covers a = true ↔ (a - b.start).toNat < b.length := by
  simp [Block.covers]

/-- The number of bytes of decoded instructions. -/
def spannedBytes (sts : List Decoded) : Nat := (sts.map Decoded.length).sum

/-- Decoded states stand one behind the other from an address on. -/
def statesContiguous : Byte → List Decoded → Prop
  | _, [] => True
  | a, st :: sts => st.offset = a ∧ statesContiguous (a + BitVec.ofNat 8 st.length) sts

theorem nodesContiguous_iff (a : Byte) (ns : List Node) : nodesContiguous a ns ↔ statesContiguous a (ns.map Node.state) := by
  induction ns generalizing a with
  | nil => exact Iff.rfl
  | cons n ns ih => exact and_congr_right fun _ => ih _

@[simp] theorem spannedBytes_append (xs ys : List Decoded) : spannedBytes (xs ++ ys) = spannedBytes xs + spannedBytes ys := by
  simp [spannedBytes]

@[simp] theorem spannedBytes_cons (st : Decoded) (sts : List Decoded) :
    spannedBytes (st :: sts) = st.length + spannedBytes sts := by
  simp [spannedBytes]

@[simp] theorem spannedBytes_nil : spannedBytes [] = 0 := rfl

theorem statesContiguous_append (a : Byte) (xs ys : List Decoded) :
    statesContiguous a (xs ++ ys) ↔
      statesContiguous a xs ∧ statesContiguous (a + BitVec.ofNat 8 (spannedBytes xs)) ys := by
  induction xs generalizing a with
  | nil => simp [statesContiguous, spannedBytes]
  | cons st xs ih =>
    simp only [List.cons_append, statesContiguous, ih, spannedBytes_cons, BitVec.ofNat_add, BitVec.add_assoc, and_assoc]

theorem Block.wf_iff (b : Block) :
    b.Wf ↔ statesContiguous b.start b.states ∧ b.length = spannedBytes b.states ∧ 0 < b.length ∧ b.length ≤ 256 := by
  simp [Block.Wf, nodesContiguous_iff, Block.states, spannedBytes, Function.comp_def]

/-- The instruction stands in memory at its address. -/
def Decoded.In (m : Memory) (st : Decoded) : Prop :=
  decode (m.bytes st.offset maxLength) = some st.instr ∧ st.length = st.instr.length

theorem Decoded.In.length_pos {m : Memory} {st : Decoded} (h : st.In m) : 0 < st.length :=
  h.2 ▸ instr_length_pos st.instr

theorem Decoded.In.eq_decodedState {m : Memory} {st : Decoded} {i : Instr} (h : st.In m)
    (hi : decode (m.bytes st.offset maxLength) = some i) : st = decodedState i st.offset := by
  obtain ⟨hdec, hlen⟩ := h
  obtain rfl : st.instr = i := Option.some.inj (hdec.symm.trans hi)
  cases st
  simp_all [decodedState]

/-- A block as it should be: well formed, and every node what its bytes decode to (R221). -/
structure Block.Good (m : Memory) (b : Block) : Prop where
  wf : b.Wf
  decoded : ∀ st ∈ b.states, st.In m

section
variable {m : Memory} {b : Block}

theorem Block.Good.length_pos (h : b.Good m) : 0 < b.length := h.wf.2.2.1

theorem Block.Good.length_le (h : b.Good m) : b.length ≤ 256 := h.wf.2.2.2

theorem Block.Good.covers_start (h : b.Good m) : b.covers b.start = true := by
  simpa [Block.covers_iff] using h.length_pos

/-- Where a state stands in its block: behind the states before it. -/
theorem Block.Good.offset_eq (h : b.Good m) {xs ys : List Decoded} {st : Decoded} (hb : b.states = xs ++ st :: ys) :
    st.offset = b.start + BitVec.ofNat 8 (spannedBytes xs) := by
  have hc := ((Block.wf_iff b).mp h.wf).1
  rw [hb, statesContiguous_append] at hc
  exact hc.2.1

/-- The address of a node is in the block's range. -/
theorem Block.Good.covers_of_hasNode (h : b.Good m) {a : Byte} (ha : b.hasNode a = true) : b.covers a = true := by
  obtain ⟨st, hst, rfl⟩ := (b.hasNode_iff a).mp ha
  obtain ⟨xs, ys, hb⟩ := List.append_of_mem hst
  have hlen : b.length = spannedBytes xs + (st.length + spannedBytes ys) := by
    rw [((Block.wf_iff b).mp h.wf).2.1, hb]
    simp
  have hpos := (h.decoded st hst).length_pos
  have hle := h.length_le
  rw [Block.covers_iff, h.offset_eq hb, add_sub_cancel_left, BitVec.toNat_ofNat]
  omega

/-- A block ends behind its last instruction. -/
theorem Block.Good.finish_of_last (h : b.Good m) {st : Decoded} (hl : b.states.getLast? = some st) :
    b.finish = st.offset + BitVec.ofNat 8 st.length := by
  obtain ⟨xs, hb⟩ := List.getLast?_eq_some_iff.mp hl
  rw [h.offset_eq hb, Block.finish, ((Block.wf_iff b).mp h.wf).2.1, hb]
  simp [BitVec.ofNat_add, BitVec.add_assoc]

theorem Block.Good.states_ne_nil (h : b.Good m) : b.states ≠ [] := by
  intro hnil
  have hlen := ((Block.wf_iff b).mp h.wf).2.1
  have hpos := h.length_pos
  simp [hnil] at hlen
  omega

/-- A block that ends at its own start covers every address (R231). -/
theorem Block.Good.length_of_finish (h : b.Good m) (hf : b.finish = b.start) : b.length = 256 := by
  have hz : BitVec.ofNat 8 b.length = 0 := by
    simpa [Block.finish] using hf
  have hpos := h.length_pos
  have hle := h.length_le
  have := congrArg BitVec.toNat hz
  simp at this
  omega

end

/-! ### The two ways a block grows (R225, R229) -/

/-- Two blocks put together, the first before the second, which keeps its number (R229). -/
def Block.joined (b e : Block) : Block :=
  { e with start := b.start, length := b.length + e.length, nodes := b.nodes ++ e.nodes }

@[simp] theorem Block.append_states (b : Block) (st : Decoded) : (b.append st).states = b.states ++ [st] := by
  simp [Block.append, Block.states]

@[simp] theorem Block.joined_states (b e : Block) : (b.joined e).states = b.states ++ e.states := by
  simp [Block.joined, Block.states]

@[simp] theorem Block.joined_id (b e : Block) : (b.joined e).id = e.id := rfl

/-- What a block covers, and one put behind it, their union covers. -/
theorem Block.append_covers (b : Block) (st : Decoded) (h : b.length + st.length ≤ 256) (a : Byte) :
    (b.append st).covers a = true ↔ b.covers a = true ∨ (a - b.finish).toNat < st.length := by
  simp only [Block.covers_iff]
  exact range_append a b.start h

theorem Block.joined_covers {b e : Block} (h : b.length + e.length ≤ 256) (hs : b.finish = e.start) (a : Byte) :
    (b.joined e).covers a = true ↔ b.covers a = true ∨ e.covers a = true := by
  simp only [Block.covers_iff]
  rw [← hs]
  exact range_append a b.start h

theorem Block.joined_finish {b e : Block} (hs : b.finish = e.start) : (b.joined e).finish = e.finish := by
  simp [Block.finish, Block.joined, ← hs, BitVec.ofNat_add, BitVec.add_assoc]

/-- A block good so far, or empty, with the instruction behind it appended, is good. -/
theorem Block.good_append {m : Memory} {b : Block} {st : Decoded} (hc : statesContiguous b.start b.states)
    (hlen : b.length = spannedBytes b.states) (hdec : ∀ st ∈ b.states, st.In m) (hst : st.In m)
    (hoff : st.offset = b.finish) (hle : b.length + st.length ≤ 256) : (b.append st).Good m where
  wf := by
    have hpos := hst.length_pos
    refine (Block.wf_iff _).mpr ⟨?_, ?_, ?_, hle⟩
    · rw [Block.append_states, statesContiguous_append]
      exact ⟨hc, by rw [hoff, Block.finish, hlen]; rfl, trivial⟩
    · rw [Block.append_states, spannedBytes_append, ← hlen]
      rfl
    · simp only [Block.append]
      omega
  decoded := by
    intro x hx
    rw [Block.append_states, List.mem_append, List.mem_singleton] at hx
    rcases hx with hx | rfl
    · exact hdec x hx
    · exact hst

theorem Block.good_joined {m : Memory} {b e : Block} (hb : b.Good m) (he : e.Good m) (hs : b.finish = e.start)
    (hle : b.length + e.length ≤ 256) : (b.joined e).Good m where
  wf := by
    obtain ⟨hbc, hbl, hbp, -⟩ := (Block.wf_iff b).mp hb.wf
    obtain ⟨hec, hel, -, -⟩ := (Block.wf_iff e).mp he.wf
    refine (Block.wf_iff _).mpr ⟨?_, ?_, Nat.add_pos_left hbp _, hle⟩
    · rw [Block.joined_states, statesContiguous_append]
      refine ⟨hbc, ?_⟩
      rw [← hbl]
      exact (show b.start + BitVec.ofNat 8 b.length = e.start from hs) ▸ hec
    · rw [Block.joined_states, spannedBytes_append, ← hbl, ← hel]
      rfl
  decoded := by
    intro x hx
    rw [Block.joined_states, List.mem_append] at hx
    exact hx.elim (hb.decoded x) (he.decoded x)

/-! ### Graphs (R221, R222) -/

theorem Graph.layout_iff (m : Memory) (g : Graph) :
    g.Layout m ↔ g.Disjoint ∧ ((g.blocks.map Block.id).Nodup ∧ ∀ b ∈ g.blocks, b.id < g.nextId) ∧
      ∀ b ∈ g.blocks, b.Good m := by
  constructor
  · rintro ⟨hdis, hnum, hwf, hdec⟩
    refine ⟨hdis, hnum, fun b hb => ⟨hwf b hb, fun st hst => ?_⟩⟩
    obtain ⟨n, hn, rfl⟩ := List.mem_map.mp hst
    exact hdec b hb n hn
  · rintro ⟨hdis, hnum, hgood⟩
    exact ⟨hdis, hnum, fun b hb => (hgood b hb).wf, fun b hb n hn =>
      (hgood b hb).decoded n.state (List.mem_map_of_mem hn)⟩

section
variable {m : Memory} {g : Graph}

theorem Graph.Layout.good (h : g.Layout m) {b : Block} (hb : b ∈ g.blocks) : b.Good m :=
  ((Graph.layout_iff m g).mp h).2.2 b hb

/-- The number of a block names it alone. -/
theorem Graph.Layout.eq_of_id (h : g.Layout m) {b c : Block} (hb : b ∈ g.blocks) (hc : c ∈ g.blocks) (hid : b.id = c.id) :
    b = c := List.inj_on_of_nodup_map h.numbered.1 hb hc hid

theorem Graph.Layout.block_eq (h : g.Layout m) {b : Block} (hb : b ∈ g.blocks) : g.block b.id = some b := by
  cases hf : g.block b.id with
  | none => exact absurd (List.find?_eq_none.mp hf b hb) (by simp)
  | some c =>
    obtain ⟨hc, hid⟩ := Graph.block_eq_some hf
    rw [h.eq_of_id hc hb hid]

theorem Graph.Layout.id_lt (h : g.Layout m) {b : Block} (hb : b ∈ g.blocks) : b.id < g.nextId := h.numbered.2 b hb

theorem Graph.Layout.id_ne_nextId (h : g.Layout m) {b : Block} (hb : b ∈ g.blocks) : b.id ≠ g.nextId :=
  (h.id_lt hb).ne

/-- One block put in place of others, or added: the blocks lie as they should if it is good and lies apart from the
rest. -/
theorem Graph.Layout.of_replaced (h : g.Layout m) {g' : Graph} {B : Block} (hB : B.Good m)
    (rest : ∀ x ∈ g'.blocks, x = B ∨ (x ∈ g.blocks ∧ ∀ a, B.covers a = true → x.covers a = false))
    (nodup : (g'.blocks.map Block.id).Nodup) (ids : ∀ x ∈ g'.blocks, x.id < g'.nextId) : g'.Layout m := by
  refine (Graph.layout_iff m g').mpr ⟨fun x hx y hy a hxa hya => ?_, ⟨nodup, ids⟩, fun x hx => ?_⟩
  · rcases rest x hx with rfl | ⟨hxg, hxB⟩ <;> rcases rest y hy with rfl | ⟨hyg, hyB⟩
    · rfl
    · exact absurd hya (by simp [hyB a hxa])
    · exact absurd hxa (by simp [hxB a hya])
    · exact h.disjoint x hxg y hyg a hxa hya
  · rcases rest x hx with rfl | ⟨hxg, -⟩
    · exact hB
    · exact h.good hxg

end

/-! ### Changing one block, and references only -/

theorem Graph.mem_modify (g : Graph) (id : Nat) (f : Block → Block) (x : Block) :
    x ∈ (g.modify id f).blocks ↔ ∃ b ∈ g.blocks, x = if b.id = id then f b else b := by
  simp [Graph.modify, eq_comm]

theorem Graph.modify_ids (g : Graph) (id : Nat) {f : Block → Block} (hf : ∀ b, (f b).id = b.id) :
    (g.modify id f).blocks.map Block.id = g.blocks.map Block.id := by
  simp only [Graph.modify, List.map_map]
  exact List.map_congr_left fun b _ => by by_cases h : b.id = id <;> simp [h, hf]

/-- A block with other references in its nodes. -/
def Block.relink (f : Node → Node) (b : Block) : Block := { b with nodes := b.nodes.map f }

/-- A graph with other references in the nodes of its blocks. -/
def Graph.relink (f : Block → Node → Node) (g : Graph) : Graph :=
  { g with blocks := g.blocks.map fun b => b.relink (f b) }

/-- What puts another reference into a node leaves its decoded state. -/
def KeepsState (f : Node → Node) : Prop := ∀ n, (f n).state = n.state

section
variable {f : Node → Node} (b : Block)

@[simp] theorem Block.relink_id : (b.relink f).id = b.id := rfl
@[simp] theorem Block.relink_length : (b.relink f).length = b.length := rfl
@[simp] theorem Block.relink_finish : (b.relink f).finish = b.finish := rfl
@[simp] theorem Block.relink_covers (a : Byte) : (b.relink f).covers a = b.covers a := rfl

theorem Block.relink_states (hf : KeepsState f) : (b.relink f).states = b.states := by
  simp only [Block.relink, Block.states, List.map_map]
  exact List.map_congr_left fun n _ => hf n

end

theorem Block.Good.relink {m : Memory} {f : Node → Node} {b : Block} (hf : KeepsState f) (h : b.Good m) :
    (b.relink f).Good m := by
  refine ⟨(Block.wf_iff _).mpr ?_, ?_⟩
  · rw [Block.relink_states b hf]
    exact (Block.wf_iff b).mp h.wf
  · rw [Block.relink_states b hf]
    exact h.decoded

/-- References are no part of how the blocks lie. -/
theorem Graph.Layout.relink {m : Memory} {g : Graph} {f : Block → Node → Node} (hf : ∀ b, KeepsState (f b))
    (h : g.Layout m) : (g.relink f).Layout m := by
  refine (Graph.layout_iff m _).mpr ⟨?_, ⟨?_, ?_⟩, ?_⟩
  · intro x hx y hy a hxa hya
    obtain ⟨b, hb, rfl⟩ := List.mem_map.mp hx
    obtain ⟨c, hc, rfl⟩ := List.mem_map.mp hy
    rw [h.disjoint b hb c hc a hxa hya]
  · simpa [Graph.relink, Function.comp_def] using h.numbered.1
  · intro x hx
    obtain ⟨b, hb, rfl⟩ := List.mem_map.mp hx
    exact h.numbered.2 b hb
  · intro x hx
    obtain ⟨b, hb, rfl⟩ := List.mem_map.mp hx
    exact (h.good hb).relink (hf b)

/-! ### How blocks grow -/

/-- The second block holds the addresses and the nodes of the first. -/
structure Block.Within (b c : Block) : Prop where
  covers : ∀ a, b.covers a = true → c.covers a = true
  states : b.states ⊆ c.states

/-- The second block is the first, with its number and its end, grown at its start. -/
structure Block.GrowsFront (b c : Block) : Prop where
  id : c.id = b.id
  finish : c.finish = b.finish
  suffix : b.states <:+ c.states
  covers : ∀ a, b.covers a = true → c.covers a = true

theorem Block.GrowsFront.refl (b : Block) : b.GrowsFront b := ⟨rfl, rfl, List.suffix_refl _, fun _ h => h⟩

theorem Block.GrowsFront.trans {b c d : Block} (h : b.GrowsFront c) (h' : c.GrowsFront d) : b.GrowsFront d :=
  ⟨h'.id.trans h.id, h'.finish.trans h.finish, h.suffix.trans h'.suffix, fun a ha => h'.covers a (h.covers a ha)⟩

theorem Block.GrowsFront.within {b c : Block} (h : b.GrowsFront c) : b.Within c := ⟨h.covers, h.suffix.subset⟩

theorem Block.Within.trans {b c d : Block} (h : b.Within c) (h' : c.Within d) : b.Within d :=
  ⟨fun a ha => h'.covers a (h.covers a ha), fun _ hx => h'.states (h.states hx)⟩

theorem Block.GrowsFront.relink {f : Node → Node} (hf : KeepsState f) (b : Block) : b.GrowsFront (b.relink f) :=
  ⟨rfl, rfl, by rw [Block.relink_states b hf], fun _ h => h⟩

theorem Block.GrowsFront.getLast? {b c : Block} (h : b.GrowsFront c) {st : Decoded} (hl : b.states.getLast? = some st) :
    c.states.getLast? = some st := by
  obtain ⟨pre, hpre⟩ := h.suffix
  rw [← hpre, List.getLast?_append, hl]
  rfl

/-- A node put behind a block. -/
theorem Block.within_append (b : Block) {st : Decoded} (h : b.length + st.length ≤ 256) : b.Within (b.append st) :=
  ⟨fun a ha => (b.append_covers st h a).mpr (.inl ha), by simp⟩

/-- Whatever is done to a graph while block `own` is walked: of every other block the number and the end stay, and it grows
at its start only; `own` becomes part of the block that the walk answers. -/
structure Graph.Grows (own : Option Nat) (g g' : Graph) (r : Option Nat) : Prop where
  keeps : ∀ c ∈ g.blocks, own ≠ some c.id → ∃ c' ∈ g'.blocks, c.GrowsFront c'
  walked : ∀ c ∈ g.blocks, own = some c.id → ∃ c' ∈ g'.blocks, r = some c'.id ∧ c.Within c'

/-- No address that was in a range is in none afterwards. -/
theorem Graph.Grows.covered {own r : Option Nat} {g g' : Graph} (h : g.Grows own g' r) {c : Block} (hc : c ∈ g.blocks) :
    ∃ c' ∈ g'.blocks, c.Within c' := by
  by_cases hown : own = some c.id
  · obtain ⟨c', hc', -, hw⟩ := h.walked c hc hown
    exact ⟨c', hc', hw⟩
  · obtain ⟨c', hc', hf⟩ := h.keeps c hc hown
    exact ⟨c', hc', hf.within⟩

theorem Graph.Grows.refl {own r : Option Nat} {g : Graph} (h : ∀ id, own = some id → r = some id) : g.Grows own g r :=
  ⟨fun c hc _ => ⟨c, hc, .refl c⟩, fun c hc hown => ⟨c, hc, h _ hown, (Block.GrowsFront.refl c).within⟩⟩

/-- What leaves every block its number and its end can come before. -/
theorem Graph.Grows.of_keeps {own r r' : Option Nat} {g g₁ g' : Graph} (h : g.Grows none g₁ r') (h' : g₁.Grows own g' r) :
    g.Grows own g' r where
  keeps c hc hown := by
    obtain ⟨c₁, hc₁, hf⟩ := h.keeps c hc (by simp)
    obtain ⟨c', hc', hf'⟩ := h'.keeps c₁ hc₁ (by rwa [hf.id])
    exact ⟨c', hc', hf.trans hf'⟩
  walked c hc hown := by
    obtain ⟨c₁, hc₁, hf⟩ := h.keeps c hc (by simp)
    obtain ⟨c', hc', hr, hw⟩ := h'.walked c₁ hc₁ (by rwa [hf.id])
    exact ⟨c', hc', hr, hf.within.trans hw⟩

theorem Graph.Grows.relink {f : Block → Node → Node} (hf : ∀ b, KeepsState (f b)) (g : Graph) (r : Option Nat) :
    g.Grows none (g.relink f) r :=
  ⟨fun c hc _ => ⟨_, List.mem_map_of_mem hc, .relink (hf c) c⟩, fun _ _ h => by cases h⟩

/-! ### The operations of the builder (R224, R225, R227, R229) -/

/-- The reference put into the node at an address of a block. -/
abbrev Graph.link (g : Graph) (id : Nat) (a : Byte) (target : Option Nat) : Graph :=
  g.modify id fun x => x.setJump a target

/-- The instruction at an address appended to a block. -/
abbrev Graph.appendTo (g : Graph) (id : Nat) (a : Byte) (i : Instr) : Graph :=
  g.modify id fun x => x.append (decodedState i a)

/-- What `Graph.link` does to a node. -/
def linkNode (id : Nat) (a : Byte) (target : Option Nat) (b : Block) (n : Node) : Node :=
  if b.id = id ∧ n.state.offset = a then { n with jump := target } else n

theorem linkNode_keepsState (id : Nat) (a : Byte) (target : Option Nat) (b : Block) :
    KeepsState (linkNode id a target b) := by
  intro n
  unfold linkNode
  split <;> rfl

theorem Graph.link_eq_relink (g : Graph) (id : Nat) (a : Byte) (target : Option Nat) :
    g.link id a target = g.relink (linkNode id a target) := by
  have hblock : ∀ b : Block, (if b.id = id then b.setJump a target else b) = b.relink (linkNode id a target b) := by
    intro b
    by_cases hid : b.id = id
    · simp [hid, Block.setJump, Block.relink, linkNode]
    · have hnode : linkNode id a target b = fun n => n := funext fun n => if_neg fun h => hid h.1
      rw [if_neg hid, Block.relink, hnode, List.map_id']
  simp only [Graph.link, Graph.modify, Graph.relink, hblock]

theorem redirect_keepsState (old new : Nat) : KeepsState (Node.redirect old new) := by
  intro n
  unfold Node.redirect
  split <;> rfl

/-- The graph of a merge before the references are redirected: the walked block removed, and put before the other. -/
def Graph.joinBlocks (g : Graph) (b e : Block) : Graph := (g.removeBlock b.id).modify e.id fun x => b.joined x

theorem Graph.merge_eq_relink (g : Graph) (b e : Block) :
    g.merge b e = (g.joinBlocks b e).relink fun _ => Node.redirect b.id e.id := rfl

theorem Graph.mem_removeBlock (g : Graph) (id : Nat) (x : Block) :
    x ∈ (g.removeBlock id).blocks ↔ x ∈ g.blocks ∧ x.id ≠ id := by
  simp [Graph.removeBlock]

theorem Graph.appendTo_ids (g : Graph) (id : Nat) (a : Byte) (i : Instr) :
    (g.appendTo id a i).blocks.map Block.id = g.blocks.map Block.id := g.modify_ids id fun _ => rfl

theorem Graph.joinBlocks_ids (g : Graph) (b e : Block) :
    (g.joinBlocks b e).blocks.map Block.id = (g.removeBlock b.id).blocks.map Block.id := Graph.modify_ids _ e.id fun _ => rfl

/-- A block that no instruction has been appended to (R224). -/
abbrev newBlock (id : Nat) (start : Byte) : Block := { id := id, start := start, length := 0, nodes := [] }

@[simp] theorem newBlock_states (id : Nat) (start : Byte) : (newBlock id start).states = [] := rfl

theorem newBlock_finish (id : Nat) (start : Byte) : (newBlock id start).finish = start := by simp [Block.finish]

theorem Graph.overlaps_eq_false {g : Graph} {id : Nat} {a : Byte} {l : Nat} (h : g.overlaps id a l = false) {x : Block}
    (hx : x ∈ g.blocks) (hid : x.id ≠ id) {c : Byte} (hc : (c - a).toNat < l) : x.covers c = false := by
  simp only [Graph.overlaps, List.any_eq_false, Bool.and_eq_true, bne_iff_ne, ne_eq, List.any_eq_true, List.mem_range,
    not_and, not_exists, Bool.not_eq_true] at h
  have hac : a + BitVec.ofNat 8 (c - a).toNat = c := by
    rw [BitVec.ofNat_toNat, BitVec.setWidth_eq, add_sub_cancel]
  exact hac ▸ h x hx hid _ hc

section
variable {m : Memory} {g : Graph} (h : g.Layout m)
include h

/-- A block appended to is the only one changed. -/
theorem Graph.Layout.mem_appendTo {b : Block} (hb : b ∈ g.blocks) (a : Byte) (i : Instr) (x : Block) :
    x ∈ (g.appendTo b.id a i).blocks ↔ x = b.append (decodedState i a) ∨ (x ∈ g.blocks ∧ x.id ≠ b.id) := by
  rw [Graph.mem_modify]
  constructor
  · rintro ⟨c, hc, rfl⟩
    split
    · next hid => exact .inl (by rw [h.eq_of_id hc hb hid])
    · next hid => exact .inr ⟨hc, hid⟩
  · rintro (rfl | ⟨hx, hid⟩)
    · exact ⟨b, hb, by simp⟩
    · exact ⟨x, hx, by simp [hid]⟩

/-- Of a new block appended to at once, the same. -/
theorem Graph.Layout.mem_opened (p : Byte) (i : Instr) (x : Block) :
    x ∈ ((g.addBlock p).appendTo g.nextId p i).blocks ↔
      x = (newBlock g.nextId p).append (decodedState i p) ∨ x ∈ g.blocks := by
  rw [Graph.mem_modify]
  simp only [Graph.addBlock, List.mem_cons, exists_eq_or_imp, if_true]
  refine or_congr_right ⟨?_, fun hx => ⟨x, hx, by simp [h.id_ne_nextId hx]⟩⟩
  rintro ⟨c, hc, rfl⟩
  simpa [h.id_ne_nextId hc] using hc

/-- An appended instruction that runs into no other block and not past its own start keeps how the blocks lie (R232 (c)). -/
theorem Graph.Layout.appendTo {b : Block} (hb : b ∈ g.blocks) {i : Instr} (hi : decode (m.bytes b.finish maxLength) = some i)
    (hle : b.length + i.length ≤ 256) (hov : g.overlaps b.id b.finish i.length = false) :
    (g.appendTo b.id b.finish i).Layout m := by
  obtain ⟨hc, hlen, -, -⟩ := (Block.wf_iff b).mp (h.good hb).wf
  have hgood : (b.append (decodedState i b.finish)).Good m :=
    Block.good_append hc hlen (h.good hb).decoded ⟨hi, rfl⟩ rfl hle
  refine h.of_replaced hgood (fun x hx => ?_) ?_ ?_
  · refine ((h.mem_appendTo hb _ i x).mp hx).imp_right fun ⟨hxg, hid⟩ => ⟨hxg, fun a ha => ?_⟩
    rcases (b.append_covers _ hle a).mp ha with hba | hnew
    · exact Bool.eq_false_iff.mpr fun hxa => hid (congrArg Block.id (h.disjoint x hxg b hb a hxa hba))
    · exact Graph.overlaps_eq_false hov hxg hid hnew
  · rw [Graph.appendTo_ids]
    exact h.numbered.1
  · intro x hx
    rcases (h.mem_appendTo hb _ i x).mp hx with rfl | ⟨hxg, -⟩
    · exact h.numbered.2 b hb
    · exact h.id_lt hxg

/-- A new block at an address that no block covers, with the instruction there, keeps how the blocks lie. -/
theorem Graph.Layout.opened {p : Byte} {i : Instr} (hi : decode (m.bytes p maxLength) = some i)
    (hov : (g.addBlock p).overlaps g.nextId p i.length = false) : ((g.addBlock p).appendTo g.nextId p i).Layout m := by
  have hle : (0 : Nat) + i.length ≤ 256 := by
    obtain ⟨-, -, -, hmax⟩ := Laws.Length.all i
    omega
  have hgood : ((newBlock g.nextId p).append (decodedState i p)).Good m :=
    Block.good_append (b := newBlock g.nextId p) trivial rfl (by simp [Block.states]) ⟨hi, rfl⟩
      (newBlock_finish _ p).symm hle
  refine h.of_replaced hgood (fun x hx => ?_) ?_ ?_
  · refine ((h.mem_opened p i x).mp hx).imp_right fun hxg => ⟨hxg, fun a ha => ?_⟩
    rcases (Block.append_covers _ _ hle a).mp ha with hba | hnew
    · simp [Block.covers] at hba
    · rw [newBlock_finish] at hnew
      exact Graph.overlaps_eq_false hov (by simp [Graph.addBlock, hxg]) (h.id_ne_nextId hxg) hnew
  · rw [Graph.appendTo_ids]
    refine List.nodup_cons.mpr ⟨fun hmem => ?_, h.numbered.1⟩
    obtain ⟨x, hx, hid⟩ := List.mem_map.mp hmem
    exact h.id_ne_nextId hx hid
  · intro x hx
    rcases (h.mem_opened p i x).mp hx with rfl | hxg
    · exact Nat.lt_succ_self _
    · exact Nat.lt_succ_of_lt (h.id_lt hxg)

/-- A block and one that starts at its end together have at most 256 bytes, or both would cover the first's start. -/
theorem Graph.Layout.joined_length {b e : Block} (hb : b ∈ g.blocks) (he : e ∈ g.blocks) (hid : e.id ≠ b.id)
    (hs : b.finish = e.start) : b.length + e.length ≤ 256 := by
  by_contra hgt
  have hbl := (h.good hb).length_le
  have hel := (h.good he).length_le
  have hbp := (h.good hb).length_pos
  have hstart : b.start - e.start = - BitVec.ofNat 8 b.length := by
    rw [← hs, Block.finish]
    ring
  have hcov : e.covers b.start = true := by
    rw [Block.covers_iff, hstart, BitVec.toNat_neg, BitVec.toNat_ofNat]
    omega
  exact hid (congrArg Block.id (h.disjoint e he b hb b.start hcov (h.good hb).covers_start))

theorem Graph.Layout.mem_joinBlocks {b e : Block} (he : e ∈ g.blocks) (hid : e.id ≠ b.id) (x : Block) :
    x ∈ (g.joinBlocks b e).blocks ↔ x = b.joined e ∨ (x ∈ g.blocks ∧ x.id ≠ b.id ∧ x.id ≠ e.id) := by
  rw [Graph.joinBlocks, Graph.mem_modify]
  simp only [Graph.mem_removeBlock]
  constructor
  · rintro ⟨c, ⟨hc, hcb⟩, rfl⟩
    split
    · next hce => exact .inl (by rw [h.eq_of_id hc he hce])
    · next hce => exact .inr ⟨hc, hcb, hce⟩
  · rintro (rfl | ⟨hx, hxb, hxe⟩)
    · exact ⟨e, ⟨he, hid⟩, by simp⟩
    · exact ⟨x, ⟨hx, hxb⟩, by simp [hxe]⟩

/-- Merging keeps how the blocks lie (R229). -/
theorem Graph.Layout.joinBlocks {b e : Block} (hb : b ∈ g.blocks) (he : e ∈ g.blocks) (hid : e.id ≠ b.id)
    (hs : b.finish = e.start) : (g.joinBlocks b e).Layout m := by
  have hle := h.joined_length hb he hid hs
  refine h.of_replaced (Block.good_joined (h.good hb) (h.good he) hs hle) (fun x hx => ?_) ?_ ?_
  · refine ((h.mem_joinBlocks he hid x).mp hx).imp_right fun ⟨hxg, hxb, hxe⟩ => ⟨hxg, fun a ha => ?_⟩
    refine Bool.eq_false_iff.mpr fun hxa => ?_
    rcases (Block.joined_covers hle hs a).mp ha with hba | hea
    · exact hxb (congrArg Block.id (h.disjoint x hxg b hb a hxa hba))
    · exact hxe (congrArg Block.id (h.disjoint x hxg e he a hxa hea))
  · rw [Graph.joinBlocks_ids]
    exact h.numbered.1.sublist (List.filter_sublist.map _)
  · intro x hx
    rcases (h.mem_joinBlocks he hid x).mp hx with rfl | ⟨hxg, -, -⟩
    · exact h.numbered.2 e he
    · exact h.id_lt hxg

theorem Graph.Layout.grows_merge {b e : Block} (hb : b ∈ g.blocks) (he : e ∈ g.blocks) (hid : e.id ≠ b.id)
    (hs : b.finish = e.start) : g.Grows (some b.id) (g.merge b e) (some e.id) := by
  have hle := h.joined_length hb he hid hs
  have hmem : ∀ x ∈ (g.joinBlocks b e).blocks, x.relink (Node.redirect b.id e.id) ∈ (g.merge b e).blocks :=
    fun x hx => List.mem_map_of_mem hx
  have hjoined := hmem _ ((h.mem_joinBlocks he hid _).mpr (.inl rfl))
  have hfront : ∀ x : Block, x.GrowsFront (x.relink (Node.redirect b.id e.id)) :=
    fun x => .relink (redirect_keepsState b.id e.id) x
  refine ⟨fun c hc hown => ?_, fun c hc hown => ?_⟩
  · by_cases hce : c.id = e.id
    · obtain rfl := h.eq_of_id hc he hce
      have hgrow : c.GrowsFront (b.joined c) :=
        ⟨rfl, Block.joined_finish hs, ⟨b.states, by simp⟩, fun a ha => (Block.joined_covers hle hs a).mpr (.inr ha)⟩
      exact ⟨_, hjoined, hgrow.trans (hfront _)⟩
    · have hcb : c.id ≠ b.id := fun heq => hown (by rw [heq])
      exact ⟨_, hmem c ((h.mem_joinBlocks he hid c).mpr (.inr ⟨hc, hcb, hce⟩)), hfront c⟩
  · obtain rfl := h.eq_of_id hc hb (Option.some.inj hown).symm
    have hwithin : c.Within (c.joined e) := ⟨fun a ha => (Block.joined_covers hle hs a).mpr (.inl ha), by simp⟩
    exact ⟨_, hjoined, rfl, hwithin.trans (hfront _).within⟩

end

/-! ### What a call that is not refused does (R224 to R231) -/

/-- What the builder has to do next: `BuildBlock` of an address; the walk of a block, at its end; what follows the append of
an instruction, which is the block's last: first its jump target is built, then the walk stops or goes on. -/
inductive Task where
  | build (p : Byte)
  | walk (id : Nat) (cur : Byte)
  | appended (id : Nat) (cur : Byte) (i : Instr)
  | linked (id : Nat) (cur : Byte) (i : Instr)

/-- The builder does a task on a graph without a refusal, and leaves a graph and the number of a block, or none. A new block
comes with its first instruction, so no block on the way is empty. -/
inductive Runs (m : Memory) : Task → Graph → Graph → Option Nat → Prop
  | found {g : Graph} {p : Byte} {e : Block} (hf : g.find p = some e) : Runs m (.build p) g g (some e.id)
  | nothing {g : Graph} {p : Byte} (hf : g.find p = none) (hd : decode (m.bytes p maxLength) = none) :
      Runs m (.build p) g ((g.addBlock p).removeBlock g.nextId) none
  | opens {g g' : Graph} {p : Byte} {i : Instr} {r : Option Nat} (hf : g.find p = none)
      (hd : decode (m.bytes p maxLength) = some i) (hov : (g.addBlock p).overlaps g.nextId p i.length = false)
      (after : Runs m (.appended g.nextId p i) ((g.addBlock p).appendTo g.nextId p i) g' r) : Runs m (.build p) g g' r
  | merges {g : Graph} {b e : Block} {cur : Byte} (hb : b ∈ g.blocks) (hf : g.find cur = some e) (hid : e.id ≠ b.id)
      (hs : cur = e.start) : Runs m (.walk b.id cur) g (g.merge b e) (some e.id)
  | closes {g : Graph} {b : Block} {cur : Byte} (hb : b ∈ g.blocks) (hs : cur = b.start) :
      Runs m (.walk b.id cur) g g (some b.id)
  | ends {g : Graph} {id : Nat} {cur : Byte} (hd : decode (m.bytes cur maxLength) = none) :
      Runs m (.walk id cur) g g (some id)
  | appends {g g' : Graph} {b : Block} {cur : Byte} {i : Instr} {r : Option Nat} (hb : b ∈ g.blocks)
      (hd : decode (m.bytes cur maxLength) = some i) (hle : b.length + i.length ≤ 256)
      (hov : g.overlaps b.id cur i.length = false)
      (after : Runs m (.appended b.id cur i) (g.appendTo b.id cur i) g' r) : Runs m (.walk b.id cur) g g' r
  | straight {g g' : Graph} {id : Nat} {cur : Byte} {i : Instr} {r : Option Nat}
      (ht : (decodedState i cur).target = none) (after : Runs m (.linked id cur i) g g' r) :
      Runs m (.appended id cur i) g g' r
  | jumps {g g₁ g' : Graph} {id : Nat} {cur a : Byte} {i : Instr} {s r : Option Nat}
      (ht : (decodedState i cur).target = some a) (target : Runs m (.build a) g g₁ s)
      (after : Runs m (.linked id cur i) (g₁.link id cur s) g' r) : Runs m (.appended id cur i) g g' r
  | stops {g : Graph} {id : Nat} {cur : Byte} {i : Instr} (hs : (decodedState i cur).stops = true) :
      Runs m (.linked id cur i) g g (some id)
  | goesOn {g g' : Graph} {id : Nat} {cur : Byte} {i : Instr} {r : Option Nat} (hs : (decodedState i cur).stops = false)
      (after : Runs m (.walk id (cur + BitVec.ofNat 8 i.length)) g g' r) : Runs m (.linked id cur i) g g' r

/-- The block a task walks. -/
def Task.own : Task → Option Nat
  | .build _ => none
  | .walk id _ => some id
  | .appended id _ _ => some id
  | .linked id _ _ => some id

/-- Where a task stands: the walk at the end of its block, behind an instruction that does not stop it; an appended
instruction as the last of its block. -/
def Task.Ready (g : Graph) : Task → Prop
  | .build _ => True
  | .walk id cur => ∃ b ∈ g.blocks, b.id = id ∧ b.finish = cur ∧
      ∃ st, b.states.getLast? = some st ∧ st.stops = false
  | .appended id cur i => ∃ b ∈ g.blocks, b.id = id ∧ b.states.getLast? = some (decodedState i cur)
  | .linked id cur i => ∃ b ∈ g.blocks, b.id = id ∧ b.states.getLast? = some (decodedState i cur)

section
variable {m : Memory} {g g' : Graph}

theorem Graph.link_grows (g : Graph) (id : Nat) (a : Byte) (s r : Option Nat) : g.Grows none (g.link id a s) r := by
  rw [Graph.link_eq_relink]
  exact .relink (linkNode_keepsState id a s) g r

theorem Graph.Layout.link (h : g.Layout m) (id : Nat) (a : Byte) (s : Option Nat) : (g.link id a s).Layout m := by
  rw [Graph.link_eq_relink]
  exact h.relink (linkNode_keepsState id a s)

theorem Graph.Layout.merge (h : g.Layout m) {b e : Block} (hb : b ∈ g.blocks) (he : e ∈ g.blocks) (hid : e.id ≠ b.id)
    (hs : b.finish = e.start) : (g.merge b e).Layout m := by
  rw [Graph.merge_eq_relink]
  exact (h.joinBlocks hb he hid hs).relink fun _ => redirect_keepsState b.id e.id

/-- A block added and removed again leaves the blocks. -/
theorem Graph.Layout.addBlock_removeBlock (h : g.Layout m) (p : Byte) :
    ((g.addBlock p).removeBlock g.nextId).blocks = g.blocks := by
  simp only [Graph.removeBlock, Graph.addBlock, bne_self_eq_false, List.filter_cons, Bool.false_eq_true, if_false]
  exact List.filter_eq_self.mpr fun b hb => by simpa using h.id_ne_nextId hb

theorem Graph.Layout.nothing (h : g.Layout m) (p : Byte) : ((g.addBlock p).removeBlock g.nextId).Layout m := by
  obtain ⟨hdis, ⟨hnodup, hlt⟩, hgood⟩ := (Graph.layout_iff m g).mp h
  rw [Graph.layout_iff, Graph.Disjoint, h.addBlock_removeBlock p]
  exact ⟨hdis, ⟨hnodup, fun b hb => Nat.lt_succ_of_lt (hlt b hb)⟩, hgood⟩

theorem Graph.Layout.grows_appendTo (h : g.Layout m) {b : Block} (hb : b ∈ g.blocks) {a : Byte} {i : Instr}
    {r : Option Nat} (hle : b.length + i.length ≤ 256) (after : (g.appendTo b.id a i).Grows (some b.id) g' r) :
    g.Grows (some b.id) g' r where
  keeps c hc hown := by
    have hid : c.id ≠ b.id := fun heq => hown (by rw [heq])
    exact after.keeps c ((h.mem_appendTo hb a i c).mpr (.inr ⟨hc, hid⟩)) hown
  walked c hc hown := by
    obtain rfl := h.eq_of_id hc hb (Option.some.inj hown).symm
    obtain ⟨c', hc', hr, hw⟩ := after.walked _ ((h.mem_appendTo hc a i _).mpr (.inl rfl)) rfl
    exact ⟨c', hc', hr, (c.within_append (st := decodedState i a) hle).trans hw⟩

theorem Graph.Layout.grows_opened (h : g.Layout m) {p : Byte} {i : Instr} {r : Option Nat}
    (after : ((g.addBlock p).appendTo g.nextId p i).Grows (some g.nextId) g' r) : g.Grows none g' r where
  keeps c hc _ := after.keeps c ((h.mem_opened p i c).mpr (.inr hc)) fun heq =>
    h.id_ne_nextId hc (Option.some.inj heq).symm
  walked _ _ hown := by cases hown

/-- Where an appended instruction is the last of its block it stays so while its target is built and linked. -/
theorem Task.ready_linked {g₁ : Graph} {id : Nat} {cur : Byte} {i : Instr} {s : Option Nat}
    (ready : Task.Ready g (.appended id cur i)) (grows : g.Grows none g₁ s) :
    Task.Ready (g₁.link id cur s) (.linked id cur i) := by
  obtain ⟨b, hb, rfl, hl⟩ := ready
  obtain ⟨c, hc, hbc⟩ := grows.keeps b hb (by simp)
  obtain ⟨d, hd, hcd⟩ := (g₁.link_grows b.id cur s s).keeps c hc (by simp)
  exact ⟨d, hd, (hbc.trans hcd).id, (hbc.trans hcd).getLast? hl⟩

/-- Behind an appended instruction the walk is at the end of its block. -/
theorem Task.ready_walk {id : Nat} {cur : Byte} {i : Instr} (h : g.Layout m) (ready : Task.Ready g (.linked id cur i))
    (hs : (decodedState i cur).stops = false) : Task.Ready g (.walk id (cur + BitVec.ofNat 8 i.length)) := by
  obtain ⟨b, hb, hid, hl⟩ := ready
  exact ⟨b, hb, hid, (h.good hb).finish_of_last hl, _, hl, hs⟩

theorem Task.ready_appendTo (h : g.Layout m) {b : Block} (hb : b ∈ g.blocks) (cur : Byte) (i : Instr) :
    Task.Ready (g.appendTo b.id cur i) (.appended b.id cur i) :=
  ⟨_, (h.mem_appendTo hb cur i _).mpr (.inl rfl), rfl, by simp⟩

theorem Task.ready_opened (h : g.Layout m) (p : Byte) (i : Instr) :
    Task.Ready ((g.addBlock p).appendTo g.nextId p i) (.appended g.nextId p i) :=
  ⟨_, (h.mem_opened p i _).mpr (.inl rfl), rfl, by simp⟩

/-- Every task keeps how the blocks lie, and lets the blocks it does not walk grow at their start only. -/
theorem Runs.layout_grows {t : Task} {r : Option Nat} (run : Runs m t g g' r) (h : g.Layout m) (ready : t.Ready g) :
    g'.Layout m ∧ g.Grows t.own g' r := by
  induction run with
  | found => exact ⟨h, .refl fun _ hown => by cases hown⟩
  | @nothing g p =>
    refine ⟨h.nothing p, fun c hc _ => ⟨c, ?_, .refl c⟩, fun _ _ hown => by cases hown⟩
    rwa [h.addBlock_removeBlock p]
  | @opens g g' p i r hf hd hov after ih =>
    obtain ⟨hl, hg⟩ := ih (h.opened hd hov) (Task.ready_opened h p i)
    exact ⟨hl, h.grows_opened hg⟩
  | @merges g b e cur hb hf hid hs =>
    obtain ⟨b', hb', hbid, rfl, -⟩ := ready
    obtain rfl := h.eq_of_id hb' hb hbid
    have he := (Graph.find_eq_some hf).1
    exact ⟨h.merge hb he hid hs, h.grows_merge hb he hid hs⟩
  | closes => exact ⟨h, .refl fun _ hown => hown⟩
  | ends => exact ⟨h, .refl fun _ hown => hown⟩
  | @appends g g' b cur i r hb hd hle hov after ih =>
    obtain ⟨b', hb', hbid, rfl, -⟩ := ready
    obtain rfl := h.eq_of_id hb' hb hbid
    obtain ⟨hl, hg⟩ := ih (h.appendTo hb hd hle hov) (Task.ready_appendTo h hb _ i)
    exact ⟨hl, h.grows_appendTo hb hle hg⟩
  | straight ht after ih => exact ih h ready
  | @jumps g g₁ g' id cur a i s r ht target after iht ih =>
    obtain ⟨hl₁, hg₁⟩ := iht h trivial
    obtain ⟨hl, hg⟩ := ih (hl₁.link id cur s) (Task.ready_linked ready hg₁)
    exact ⟨hl, hg₁.of_keeps ((g₁.link_grows id cur s s).of_keeps hg)⟩
  | stops => exact ⟨h, .refl fun _ hown => hown⟩
  | goesOn hs after ih => exact ih h (Task.ready_walk h ready hs)

end

/-! ### The fuel (R234) -/

/-- The addresses that no block covers. -/
def Graph.uncovered (g : Graph) : Finset Byte := Finset.univ.filter fun a => g.find a = none

/-- Their number. -/
def Graph.free (g : Graph) : Nat := g.uncovered.card

theorem Graph.mem_uncovered (g : Graph) (a : Byte) : a ∈ g.uncovered ↔ ∀ b ∈ g.blocks, b.covers a = false := by
  simp [Graph.uncovered, Graph.find_eq_none]

theorem Graph.free_le (g : Graph) : g.free ≤ 256 := by
  refine (Finset.card_le_univ _).trans (le_of_eq ?_)
  exact FinEnum.card_eq_fintypeCard.symm.trans (FinEnum.card_bitVec 8)

section
variable {g g' : Graph} (h : ∀ b ∈ g.blocks, ∃ c ∈ g'.blocks, b.Within c)
include h

theorem Graph.uncovered_subset : g'.uncovered ⊆ g.uncovered := by
  intro a ha
  rw [Graph.mem_uncovered] at ha ⊢
  intro b hb
  obtain ⟨c, hc, hw⟩ := h b hb
  exact Bool.eq_false_iff.mpr fun hba => Bool.false_ne_true ((ha c hc).symm.trans (hw.covers a hba))

theorem Graph.free_mono : g'.free ≤ g.free := Finset.card_le_card (Graph.uncovered_subset h)

/-- Where an address becomes covered the free addresses become fewer. -/
theorem Graph.free_lt {a : Byte} (hf : g.find a = none) {c : Block} (hc : c ∈ g'.blocks) (ha : c.covers a = true) :
    g'.free < g.free := by
  refine Finset.card_lt_card (Finset.ssubset_iff_of_subset (Graph.uncovered_subset h) |>.mpr ⟨a, ?_, ?_⟩)
  · exact (g.mem_uncovered a).mpr ((Graph.find_eq_none g a).mp hf)
  · exact fun hmem => Bool.false_ne_true (((g'.mem_uncovered a).mp hmem c hc).symm.trans ha)

end

/-- An answer of the builder with fuel `n`: a refusal of R232, or none for want of fuel, which there was less of than free
addresses; or a run of the task. -/
def Answers (m : Memory) (t : Task) (g : Graph) (n : Nat) : Built → Prop
  | .error e => e = .noAnswer → n ≤ g.free
  | .ok (g', r) => Runs m t g g' r

/-- What `walk` does behind an appended instruction. -/
def follow (m : Memory) (n : Nat) (g : Graph) (id : Nat) (cur : Byte) (i : Instr) : Built :=
  match (decodedState i cur).target with
  | none =>
    if (decodedState i cur).stops then .ok (g, some id) else walk m n g id (cur + BitVec.ofNat 8 i.length)
  | some a =>
    match buildBlockWith (walk m n) g a with
    | .error e => .error e
    | .ok (g₁, s) =>
      if (decodedState i cur).stops then .ok (g₁.link id cur s, some id)
      else walk m n (g₁.link id cur s) id (cur + BitVec.ofNat 8 i.length)

/-- The five kinds of control flow (R120). -/
theorem getControlFlow_cases (a : Byte) (i : Instr) :
    (∃ d, getControlFlow a i = writerFlow d) ∨ getControlFlow a i = straightFlow ∨
      (∃ ev rel, getControlFlow a i = jumpFlow ev a rel) ∨ getControlFlow a i = haltFlow ∨ getControlFlow a i = ioFlow := by
  obtain ⟨R, -, shape⟩ := exec_shape i { State.reset with pc := a }
  cases shape with
  | mutate2 | mutate1 | copy => exact .inl ⟨_, ‹_›⟩
  | compare => exact .inr (.inl ‹_›)
  | jump => exact .inr (.inr (.inl ⟨_, _, ‹_›⟩))
  | halt hi => exact .inr (.inr (.inr (.inl (by rw [hi]; rfl))))
  | send | recv => exact .inr (.inr (.inr (.inr ‹_›)))

/-- The walk of a block whose end no block covers, or of an empty block, appends the instruction there, where it fits, and
goes on behind it. -/
theorem walk_of_decoded (m : Memory) (n : Nat) {g : Graph} {id : Nat} {cur : Byte} {b : Block} {i : Instr}
    (hb : g.block id = some b) (hf : (if b.length = 0 then none else g.find cur) = none)
    (hd : decode (m.bytes cur maxLength) = some i) (hle : b.length + i.length ≤ 256)
    (hov : g.overlaps id cur i.length = false) :
    walk m (n + 1) g id cur = follow m n (g.appendTo id cur i) id cur i := by
  have hle' : ¬ b.length + i.length > 256 := Nat.not_lt.mpr hle
  unfold walk
  simp only [hb, hf, hd, hle', hov, if_false, Bool.false_eq_true]
  change _ = follow m n (g.modify id fun x => x.append { instr := i, offset := cur, length := i.length }) id cur i
  unfold follow Decoded.target Node.target Decoded.stops decodedState
  rcases getControlFlow_cases cur i with ⟨d, h⟩ | h | ⟨ev, rel, h⟩ | h | h
  · unfold writerFlow at h
    split at h <;> simp [h, straightFlow]
  · simp [h, straightFlow]
  · simp [h, jumpFlow] <;> rfl
  · simp [h, haltFlow]
  · simp [h, ioFlow]

/-- The walk of a block at whose end no instruction decodes stops there, and an empty block is removed (R230). -/
theorem walk_of_undecoded (m : Memory) (n : Nat) {g : Graph} {id : Nat} {cur : Byte} {b : Block}
    (hb : g.block id = some b) (hf : (if b.length = 0 then none else g.find cur) = none)
    (hd : decode (m.bytes cur maxLength) = none) :
    walk m (n + 1) g id cur = if b.length = 0 then .ok (g.removeBlock id, none) else .ok (g, some id) := by
  unfold walk
  simp only [hb, hf, hd]

/-- The walk of a block refuses an instruction that does not fit (R232 (c)). -/
theorem walk_of_overlap (m : Memory) (n : Nat) {g : Graph} {id : Nat} {cur : Byte} {b : Block} {i : Instr}
    (hb : g.block id = some b) (hf : (if b.length = 0 then none else g.find cur) = none)
    (hd : decode (m.bytes cur maxLength) = some i)
    (hno : ¬(b.length + i.length ≤ 256 ∧ g.overlaps id cur i.length = false)) :
    walk m (n + 1) g id cur = .error (.overlap cur) := by
  unfold walk
  simp only [hb, hf, hd]
  by_cases hle : b.length + i.length > 256
  · rw [if_pos hle]
  · have hov : g.overlaps id cur i.length = true := by
      by_contra hov
      exact hno ⟨Nat.le_of_not_lt hle, Bool.eq_false_iff.mpr hov⟩
    rw [if_neg hle, if_pos hov]

/-- The walk of a block that has instructions arrives where its end is covered (R225). -/
theorem walk_of_covered (m : Memory) (n : Nat) {g : Graph} {id : Nat} {cur : Byte} {b e : Block}
    (hb : g.block id = some b) (hpos : b.length ≠ 0) (hf : g.find cur = some e) :
    walk m (n + 1) g id cur = arrive g b e cur := by
  unfold walk
  simp only [hb, hf, hpos, if_false]

section
variable {m : Memory} {g g' : Graph} {n : Nat}

theorem Answers.mono {t t' : Task} {n' : Nat} {x : Built} (h : Answers m t g n x)
    (runs : ∀ g₁ r, Runs m t g g₁ r → Runs m t' g' g₁ r) (free : n ≤ g.free → n' ≤ g'.free) : Answers m t' g' n' x := by
  rcases x with e | ⟨g₁, r⟩
  · exact fun he => free (h he)
  · exact runs g₁ r h

/-- The walk of every block, and of every new one, with fuel `n`, answers. -/
structure WalkAnswers (m : Memory) (n : Nat) : Prop where
  going : ∀ (g : Graph) (id : Nat) (cur : Byte), g.Layout m → Task.Ready g (.walk id cur) →
    Answers m (.walk id cur) g n (walk m n g id cur)
  fresh : ∀ (g : Graph) (p : Byte), g.Layout m → g.find p = none →
    Answers m (.build p) g n (walk m n (g.addBlock p) g.nextId p)

theorem WalkAnswers.build (h : WalkAnswers m n) (hg : g.Layout m) (p : Byte) :
    Answers m (.build p) g n (buildBlockWith (walk m n) g p) := by
  cases hf : g.find p with
  | some e =>
    rw [buildBlockWith, hf]
    exact .found hf
  | none =>
    rw [buildBlockWith, hf]
    exact h.fresh g p hg hf

theorem WalkAnswers.linked (h : WalkAnswers m n) (hg : g.Layout m) {id : Nat} {cur : Byte} {i : Instr}
    (ready : Task.Ready g (.linked id cur i)) :
    Answers m (.linked id cur i) g n
      (if (decodedState i cur).stops then .ok (g, some id) else walk m n g id (cur + BitVec.ofNat 8 i.length)) := by
  cases hs : (decodedState i cur).stops with
  | true => exact .stops hs
  | false => exact (h.going g id _ hg (Task.ready_walk hg ready hs)).mono (fun _ _ => .goesOn hs) fun hle => hle

theorem WalkAnswers.appended (h : WalkAnswers m n) (hg : g.Layout m) {id : Nat} {cur : Byte} {i : Instr}
    (ready : Task.Ready g (.appended id cur i)) :
    Answers m (.appended id cur i) g n (follow m n g id cur i) := by
  unfold follow
  cases ht : (decodedState i cur).target with
  | none => exact (h.linked hg ready).mono (fun _ _ => .straight ht) fun hle => hle
  | some a =>
    have target := h.build hg a
    dsimp only
    cases hx : buildBlockWith (walk m n) g a with
    | error e =>
      rw [hx] at target
      exact target
    | ok x =>
      obtain ⟨g₁, s⟩ := x
      rw [hx] at target
      obtain ⟨hl, hgrows⟩ := target.layout_grows hg trivial
      refine (h.linked (hl.link id cur s) (Task.ready_linked ready hgrows)).mono
        (fun _ _ => .jumps ht target) fun hle => hle.trans (Graph.free_mono fun b hb => ?_)
      exact (hgrows.of_keeps (g₁.link_grows id cur s s)).covered hb

/-- An appended instruction takes one free address at least. -/
theorem Graph.Layout.free_appendTo (h : g.Layout m) {b : Block} (hb : b ∈ g.blocks) {i : Instr}
    (hf : g.find b.finish = none) (hle : b.length + i.length ≤ 256) : (g.appendTo b.id b.finish i).free < g.free := by
  refine Graph.free_lt (fun c hc => (h.grows_appendTo hb hle (.refl fun _ hown => hown)).covered hc) hf
    ((h.mem_appendTo hb _ i _).mpr (.inl rfl)) ((b.append_covers _ hle _).mpr (.inr ?_))
  simpa using instr_length_pos i

theorem Graph.Layout.free_opened (h : g.Layout m) {p : Byte} {i : Instr} (hf : g.find p = none) :
    ((g.addBlock p).appendTo g.nextId p i).free < g.free := by
  have hle : (newBlock g.nextId p).length + (decodedState i p).length ≤ 256 := by
    obtain ⟨-, -, -, hmax⟩ := Laws.Length.all i
    simp
    omega
  refine Graph.free_lt (fun c hc => (h.grows_opened (.refl fun _ hown => hown)).covered hc) hf
    ((h.mem_opened p i _).mpr (.inl rfl)) ((Block.append_covers _ _ hle p).mpr (.inr ?_))
  simpa [newBlock_finish] using instr_length_pos i

/-- With one unit of fuel more the walk of a block answers: it arrives, ends, or appends an instruction, which makes the
free addresses fewer. -/
theorem WalkAnswers.going_succ (h : WalkAnswers m n) (hg : g.Layout m) {id : Nat} {cur : Byte}
    (ready : Task.Ready g (.walk id cur)) : Answers m (.walk id cur) g (n + 1) (walk m (n + 1) g id cur) := by
  obtain ⟨b, hb, rfl, rfl, -⟩ := ready
  have hblock := hg.block_eq hb
  have hpos : b.length ≠ 0 := (hg.good hb).length_pos.ne'
  cases hf : g.find b.finish with
  | some e =>
    rw [walk_of_covered m n hblock hpos hf, arrive]
    split
    · next hid =>
      split
      · next hs => exact .merges hb hf hid hs
      · exact fun he => by cases he
    · split
      · next hs => exact .closes hb hs
      · exact fun he => by cases he
  | none =>
    have hfree : (if b.length = 0 then none else g.find b.finish) = none := by rw [if_neg hpos, hf]
    cases hd : decode (m.bytes b.finish maxLength) with
    | none =>
      rw [walk_of_undecoded m n hblock hfree hd, if_neg hpos]
      exact .ends hd
    | some i =>
      by_cases hfits : b.length + i.length ≤ 256 ∧ g.overlaps b.id b.finish i.length = false
      · obtain ⟨hle, hov⟩ := hfits
        rw [walk_of_decoded m n hblock hfree hd hle hov]
        exact (h.appended (hg.appendTo hb hd hle hov) (Task.ready_appendTo hg hb _ i)).mono
          (fun _ _ => .appends hb hd hle hov) fun hn => hn.trans_lt (hg.free_appendTo hb hf hle)
      · rw [walk_of_overlap m n hblock hfree hd hfits]
        exact fun he => by cases he

/-- The same of a new block. -/
theorem WalkAnswers.fresh_succ (h : WalkAnswers m n) (hg : g.Layout m) {p : Byte} (hf : g.find p = none) :
    Answers m (.build p) g (n + 1) (walk m (n + 1) (g.addBlock p) g.nextId p) := by
  have hblock : (g.addBlock p).block g.nextId = some (newBlock g.nextId p) := by simp [Graph.block, Graph.addBlock]
  have hfree : (if (newBlock g.nextId p).length = 0 then none else (g.addBlock p).find p) = none := rfl
  cases hd : decode (m.bytes p maxLength) with
  | none =>
    rw [walk_of_undecoded m n hblock hfree hd]
    exact .nothing hf hd
  | some i =>
    by_cases hfits : (newBlock g.nextId p).length + i.length ≤ 256 ∧ (g.addBlock p).overlaps g.nextId p i.length = false
    · obtain ⟨hle, hov⟩ := hfits
      rw [walk_of_decoded m n hblock hfree hd hle hov]
      exact (h.appended (hg.opened hd hov) (Task.ready_opened hg p i)).mono
        (fun _ _ => .opens hf hd hov) fun hn => hn.trans_lt (hg.free_opened hf)
    · rw [walk_of_overlap m n hblock hfree hd hfits]
      exact fun he => by cases he

end

theorem walkAnswers (m : Memory) (n : Nat) : WalkAnswers m n := by
  induction n with
  | zero => exact ⟨fun _ _ _ _ _ _ => Nat.zero_le _, fun _ _ _ _ _ => Nat.zero_le _⟩
  | succ n ih => exact ⟨fun _ _ _ hg ready => ih.going_succ hg ready, fun _ _ hg hf => ih.fresh_succ hg hf⟩

/-! ### The statements -/

/-- A call of `BuildBlock` that is not refused did its task, and left no target inside an instruction. -/
theorem runs_of_buildBlock {m : Memory} {g g' : Graph} {p : Byte} {r : Option Nat} (hg : g.Layout m)
    (h : buildBlock g m p = .ok (g', r)) : Runs m (.build p) g g' r ∧ g'.midTarget = none := by
  obtain ⟨hb, hmid⟩ := (refuseMidTarget_eq_ok _ _ _).mp h
  have answers := (walkAnswers m walkFuel).build hg p
  rw [hb] at answers
  exact ⟨answers, hmid⟩

/-- Settles O55: `Runs.layout_grows`, on the run that a call is. -/
theorem graphBlocksAreDisjoint : Obligations.GraphBlocksAreDisjoint := by
  intro m
  refine ⟨(Graph.layout_iff m _).mpr (by simp [Graph.empty, Graph.Disjoint]), fun g g' p r hg h => ?_⟩
  exact ((runs_of_buildBlock hg h).1.layout_grows hg trivial).1

/-- Settles O58: a walk runs out of fuel only with less of it than free addresses, of which there are at most 256. -/
theorem graphBuilderTerminates : Obligations.GraphBuilderTerminates := by
  intro m g p hg h
  have hfuel : walkFuel ≤ g.free := by
    have answers := (walkAnswers m walkFuel).build hg p
    rw [(refuseMidTarget_eq_noAnswer _).mp h] at answers
    exact answers rfl
  have hfree := g.free_le
  unfold walkFuel at hfuel
  omega

/-- Settles O59, by the three ways a call of `BuildBlock` begins. -/
theorem graphHoldsStart : Obligations.GraphHoldsStart := by
  intro m g g' p r hg h
  obtain ⟨run, -⟩ := runs_of_buildBlock hg h
  cases run with
  | @found _ _ e hf =>
    obtain ⟨he, hcov⟩ := Graph.find_eq_some hf
    refine ⟨fun b hb hbp => ⟨rfl, ?_⟩, fun hnone => absurd hcov (by simp [hnone e he])⟩
    rw [hg.disjoint b hb e he p hbp hcov]
  | nothing hf hd =>
    refine ⟨fun b hb hbp => absurd hbp (by simp [(Graph.find_eq_none g p).mp hf b hb]), fun _ =>
      ⟨fun _ => ⟨hg.addBlock_removeBlock p, rfl⟩, fun hsome => ?_⟩⟩
    rw [show decode (m.bytes p 5) = none from hd] at hsome
    cases hsome
  | @opens _ _ _ i _ hf hd hov after =>
    refine ⟨fun b hb hbp => absurd hbp (by simp [(Graph.find_eq_none g p).mp hf b hb]), fun _ =>
      ⟨fun hnone => absurd (hd.symm.trans hnone) (by simp), fun _ => ?_⟩⟩
    obtain ⟨-, hgrows⟩ := after.layout_grows (hg.opened hd hov) (Task.ready_opened hg p i)
    obtain ⟨c, hc, hr, hw⟩ := hgrows.walked _ ((hg.mem_opened p i _).mpr (.inl rfl)) rfl
    exact ⟨c, hc, hr, (c.hasNode_iff p).mpr ⟨decodedState i p, hw.states (by simp), rfl⟩⟩

/-! ### Where blocks end (R226, R231) -/

/-- The block ends where it may: with an instruction that stops the walk, before bytes that decode to nothing, or after 256
bytes. -/
def Block.Ends (m : Memory) (b : Block) : Prop :=
  (∃ st, b.states.getLast? = some st ∧ st.stops = true) ∨ decode (m.bytes b.finish maxLength) = none ∨ b.length = 256

/-- No instruction before the last stops the walk of the block. -/
def Block.GoesOn (b : Block) : Prop := ∀ st ∈ b.states.dropLast, st.stops = false

/-- Blocks stop nowhere before their end, and but for those whose walk is not over they end where they may. -/
def Graph.EndsBut (m : Memory) (walked : Nat → Prop) (g : Graph) : Prop :=
  ∀ b ∈ g.blocks, b.GoesOn ∧ (¬walked b.id → b.Ends m)

theorem Block.GoesOn.all {b : Block} (h : b.GoesOn) {last : Decoded} (hl : b.states.getLast? = some last)
    (hs : last.stops = false) : ∀ st ∈ b.states, st.stops = false := by
  intro st hst
  by_cases hlast : st = last
  · exact hlast ▸ hs
  · exact h st (List.mem_dropLast_of_mem_of_ne_getLast? hst fun heq => hlast (Option.some.inj (heq.trans hl)))

/-- References are no part of where blocks end. -/
theorem Graph.EndsBut.relink {m : Memory} {w : Nat → Prop} {g : Graph} {f : Block → Node → Node}
    (hf : ∀ b, KeepsState (f b)) (h : g.EndsBut m w) : (g.relink f).EndsBut m w := by
  intro x hx
  obtain ⟨b, hb, rfl⟩ := List.mem_map.mp hx
  simpa [Block.GoesOn, Block.Ends, Block.relink_states b (hf b)] using h b hb

theorem Block.states_getElem? (b : Block) (k : Nat) : b.states[k]? = (b.nodes[k]?).map Node.state :=
  List.getElem?_map

/-- No node but the last stops the walk, in terms of the decoded states. -/
theorem Block.goesOn_iff (b : Block) :
    b.GoesOn ↔ ∀ (k : Nat) (n : Node), b.nodes[k]? = some n → n.Stops → k + 1 = b.nodes.length := by
  have hlen : b.states.length = b.nodes.length := List.length_map _
  constructor
  · intro hgo k n hn hstop
    by_contra hnot
    obtain ⟨hk, -⟩ := List.getElem?_eq_some_iff.mp hn
    have hmem : n.state ∈ b.states.dropLast := by
      refine List.mem_iff_getElem?.mpr ⟨k, ?_⟩
      rw [List.getElem?_dropLast, if_pos (by omega), b.states_getElem?, hn, Option.map_some]
    exact Bool.false_ne_true ((hgo _ hmem).symm.trans (n.stops_iff.mp hstop))
  · intro hlast st hst
    obtain ⟨k, hk⟩ := List.mem_iff_getElem?.mp hst
    rw [List.getElem?_dropLast, b.states_getElem?] at hk
    split at hk
    · next hlt =>
      obtain ⟨n, hn, rfl⟩ := Option.map_eq_some_iff.mp hk
      refine Bool.eq_false_iff.mpr fun hstop => ?_
      have := hlast k n hn (n.stops_iff.mpr hstop)
      omega
    · cases hk

/-- Where a block ends, in terms of its last node. -/
theorem Block.Good.ends_iff {m : Memory} {b : Block} (h : b.Good m) :
    b.Ends m ↔ ∀ (k : Nat) (n : Node), b.nodes[k]? = some n → k + 1 = b.nodes.length →
      n.Stops ∨ decode (m.bytes b.finish maxLength) = none ∨ b.length = 256 := by
  have hlen : b.states.length = b.nodes.length := List.length_map _
  have hlast : b.states.getLast? = (b.nodes[b.nodes.length - 1]?).map Node.state := by
    rw [List.getLast?_eq_getElem?, hlen, b.states_getElem?]
  constructor
  · refine fun hend k n hn hk => hend.imp_left ?_
    rintro ⟨st, hst, hstop⟩
    rw [hlast, show b.nodes.length - 1 = k by omega, hn] at hst
    obtain rfl := Option.some.inj hst
    exact n.stops_iff.mpr hstop
  · intro hend
    obtain ⟨st, hst⟩ := Option.ne_none_iff_exists'.mp (mt List.getLast?_eq_none_iff.mp h.states_ne_nil)
    obtain ⟨n, hn, rfl⟩ := Option.map_eq_some_iff.mp (hlast.symm.trans hst)
    obtain ⟨hk, -⟩ := List.getElem?_eq_some_iff.mp hn
    exact (hend _ n hn (by omega)).imp_left fun hstop => ⟨_, hst, n.stops_iff.mp hstop⟩

/-- `Graph.StopsEndBlocks` says it of every block. -/
theorem Graph.Layout.stopsEndBlocks_iff {m : Memory} {g : Graph} (h : g.Layout m) :
    g.StopsEndBlocks m ↔ g.EndsBut m fun _ => False := by
  refine forall₂_congr fun b hb => ?_
  rw [b.goesOn_iff, (h.good hb).ends_iff]
  exact ⟨fun hends => ⟨fun k n hn => (hends k n hn).1, fun _ k n hn => (hends k n hn).2⟩,
    fun ⟨hgo, hend⟩ k n hn => ⟨hgo k n hn, hend id k n hn⟩⟩

section
variable {m : Memory} {g g' : Graph} {w : Nat → Prop}

/-- A block with an instruction appended is the walked one: it may end nowhere yet, but it stops nowhere before. -/
theorem Graph.Layout.endsBut_appendTo (h : g.Layout m) {b : Block} (hb : b ∈ g.blocks) (a : Byte) (i : Instr)
    (hgo : ∀ st ∈ b.states, st.stops = false) (hends : g.EndsBut m fun x => w x ∨ some b.id = some x) :
    (g.appendTo b.id a i).EndsBut m fun x => w x ∨ some b.id = some x := by
  intro x hx
  rcases (h.mem_appendTo hb a i x).mp hx with rfl | ⟨hxg, -⟩
  · exact ⟨by simpa [Block.GoesOn] using hgo, fun hno => absurd (.inr rfl) hno⟩
  · exact hends x hxg

theorem Graph.Layout.endsBut_opened (h : g.Layout m) (p : Byte) (i : Instr) (hends : g.EndsBut m w) :
    ((g.addBlock p).appendTo g.nextId p i).EndsBut m fun x => w x ∨ some g.nextId = some x := by
  intro x hx
  rcases (h.mem_opened p i x).mp hx with rfl | hxg
  · exact ⟨by simp [Block.GoesOn, newBlock_states], fun hno => absurd (.inr rfl) hno⟩
  · obtain ⟨hgo, hend⟩ := hends x hxg
    exact ⟨hgo, fun hno => hend fun hw => hno (.inl hw)⟩

/-- A merged block ends where the block ended that it was put before. -/
theorem Graph.Layout.endsBut_joinBlocks (h : g.Layout m) {b e : Block} (hb : b ∈ g.blocks) (he : e ∈ g.blocks)
    (hid : e.id ≠ b.id) (hs : b.finish = e.start) (hgo : ∀ st ∈ b.states, st.stops = false)
    (hends : g.EndsBut m fun x => w x ∨ some b.id = some x) : (g.joinBlocks b e).EndsBut m w := by
  have hstill : ∀ {x : Block}, x ∈ g.blocks → x.id ≠ b.id → x.GoesOn ∧ (¬w x.id → x.Ends m) := fun hx hxb =>
    ⟨(hends _ hx).1, fun hno => (hends _ hx).2 fun hw => hw.elim hno fun heq => hxb (Option.some.inj heq).symm⟩
  intro x hx
  rcases (h.mem_joinBlocks he hid x).mp hx with rfl | ⟨hxg, hxb, -⟩
  · obtain ⟨hgoE, hendE⟩ := hstill he hid
    have hne := (h.good he).states_ne_nil
    refine ⟨fun st hst => ?_, fun hno => ?_⟩
    · rw [Block.joined_states, List.dropLast_append_of_ne_nil hne, List.mem_append] at hst
      exact hst.elim (hgo st) (hgoE st)
    · rcases hendE hno with ⟨st, hl, hstop⟩ | hdec | hlen
      · exact .inl ⟨st, by simp [hl], hstop⟩
      · exact .inr (.inl (by rwa [Block.joined_finish hs]))
      · have hle := h.joined_length hb he hid hs
        exact .inr (.inr (show b.length + e.length = 256 by omega))
  · exact hstill hxg hxb

/-- Where the walk of a block is over it ends where it may, if that block does. -/
theorem Graph.EndsBut.close {id : Nat} (hends : g.EndsBut m fun x => w x ∨ some id = some x)
    (hend : ∀ b ∈ g.blocks, b.id = id → b.Ends m) : g.EndsBut m w := fun b hb =>
  ⟨(hends b hb).1, fun hno => by
    by_cases hid : b.id = id
    · exact hend b hb hid
    · exact (hends b hb).2 fun hw => hw.elim hno fun heq => hid (Option.some.inj heq).symm⟩

/-- Every task ends the walk of its block where it may end. -/
theorem Runs.endsBut {t : Task} {r : Option Nat} (run : Runs m t g g' r) (h : g.Layout m) (ready : t.Ready g)
    (hends : g.EndsBut m fun x => w x ∨ t.own = some x) : g'.EndsBut m w := by
  induction run generalizing w with
  | found => simpa [Task.own] using hends
  | @nothing g p =>
    intro b hb
    rw [h.addBlock_removeBlock p] at hb
    simpa [Task.own] using hends b hb
  | @opens g g' p i r hf hd hov after ih =>
    refine ih (h.opened hd hov) (Task.ready_opened h p i) (h.endsBut_opened p i ?_)
    simpa [Task.own] using hends
  | @merges g b e cur hb hf hid hs =>
    obtain ⟨b', hb', hbid, rfl, st, hl, hgo⟩ := ready
    obtain rfl := h.eq_of_id hb' hb hbid
    have he := (Graph.find_eq_some hf).1
    rw [Graph.merge_eq_relink]
    exact (h.endsBut_joinBlocks hb he hid hs ((hends _ hb).1.all hl hgo) hends).relink fun _ =>
      redirect_keepsState _ _
  | @closes g b cur hb hs =>
    obtain ⟨b', hb', hbid, rfl, -⟩ := ready
    obtain rfl := h.eq_of_id hb' hb hbid
    refine hends.close fun c hc hid => ?_
    obtain rfl := h.eq_of_id hc hb hid
    exact .inr (.inr ((h.good hb).length_of_finish hs))
  | ends hd =>
    obtain ⟨b, hb, rfl, rfl, -⟩ := ready
    refine hends.close fun c hc hid => ?_
    obtain rfl := h.eq_of_id hc hb hid
    exact .inr (.inl hd)
  | @appends g g' b cur i r hb hd hle hov after ih =>
    obtain ⟨b', hb', hbid, rfl, st, hl, hgo⟩ := ready
    obtain rfl := h.eq_of_id hb' hb hbid
    exact ih (h.appendTo hb hd hle hov) (Task.ready_appendTo h hb _ i)
      (h.endsBut_appendTo hb _ i ((hends _ hb).1.all hl hgo) hends)
  | straight ht after ih => exact ih h ready hends
  | @jumps g g₁ g' id cur a i s r ht target after iht ih =>
    obtain ⟨hl₁, hg₁⟩ := target.layout_grows h trivial
    refine ih (hl₁.link id cur s) (Task.ready_linked ready hg₁) ?_
    rw [Graph.link_eq_relink]
    refine (iht h trivial ?_).relink (linkNode_keepsState id cur s)
    simpa [Task.own] using hends
  | @stops g id cur i hs =>
    obtain ⟨b, hb, rfl, hl⟩ := ready
    refine hends.close fun c hc hid => ?_
    obtain rfl := h.eq_of_id hc hb hid
    exact .inl ⟨_, hl, hs⟩
  | goesOn hs after ih => exact ih h (Task.ready_walk h ready hs) hends

end

/-- Settles O57: `Runs.endsBut`, with no walk open before or after the call. -/
theorem graphStopsEndBlocks : Obligations.GraphStopsEndBlocks := by
  intro m
  refine ⟨by simp [Graph.StopsEndBlocks, Graph.empty], fun g g' p r hg hstops h => ?_⟩
  obtain ⟨run, -⟩ := runs_of_buildBlock hg h
  rw [(run.layout_grows hg trivial).1.stopsEndBlocks_iff]
  refine run.endsBut hg trivial ?_
  simpa [Task.own] using hg.stopsEndBlocks_iff.mp hstops

/-! ### Where jump references lead (R227, R230) -/

/-- The reference of a node leads where it should: of a jump to a block that covers the target, to none where nothing decodes
there, or anywhere while the target of the node at that address is still to be built; of any other node to none. -/
structure Node.Reaches (m : Memory) (pending : Byte → Prop) (g : Graph) (n : Node) : Prop where
  none : n.state.target = none → n.jump = none
  target : ∀ a, n.state.target = some a → pending n.state.offset ∨
    (n.jump = Option.none ∧ decode (m.bytes a maxLength) = Option.none) ∨
      ∃ c ∈ g.blocks, n.jump = some c.id ∧ c.covers a = true

/-- The references of all nodes lead where they should, but for those still pending. -/
def Graph.ReachesBut (m : Memory) (pending : Byte → Prop) (g : Graph) : Prop :=
  ∀ b ∈ g.blocks, ∀ n ∈ b.nodes, n.Reaches m pending g

/-- The address of the instruction whose target a task has to build first. -/
def Task.pending : Task → Option Byte
  | .appended _ cur _ => some cur
  | .build _ => none
  | .walk _ _ => none
  | .linked _ _ _ => none

section
variable {m : Memory} {g g' : Graph} {p : Byte → Prop}

/-- Where every block's number names a block that covers no less, references lead where they led. -/
theorem Node.Reaches.of_grows {own r : Option Nat} {n : Node} (hn : n.Reaches m p g) (h : g.Grows own g' r)
    (same : ∀ id, own = some id → r = some id) : n.Reaches m p g' := by
  refine ⟨hn.none, fun a ha => (hn.target a ha).imp_right fun hr => hr.imp_right ?_⟩
  rintro ⟨c, hc, hjump, hcov⟩
  by_cases hown : own = some c.id
  · obtain ⟨c', hc', hid, hw⟩ := h.walked c hc hown
    exact ⟨c', hc', by rw [hjump, ← same _ hown, hid], hw.covers a hcov⟩
  · obtain ⟨c', hc', hf⟩ := h.keeps c hc hown
    exact ⟨c', hc', by rw [hjump, hf.id], hf.covers a hcov⟩

/-- An appended node has no reference yet, and its target, if it has one, is pending. -/
theorem reaches_appended (i : Instr) (a : Byte) :
    Node.Reaches m (fun x => p x ∨ some a = some x) g { state := decodedState i a, jump := none } :=
  ⟨fun _ => rfl, fun _ _ => .inl (.inr rfl)⟩

theorem Node.Reaches.weaken {n : Node} {q : Byte → Prop} (hn : n.Reaches m p g)
    (h : n.state.target ≠ Option.none → p n.state.offset → q n.state.offset) : n.Reaches m q g :=
  ⟨hn.none, fun a ha => (hn.target a ha).imp_left (h (by simp [ha]))⟩

theorem Graph.Layout.reaches_appendTo (h : g.Layout m) {b : Block} (hb : b ∈ g.blocks) {a : Byte} {i : Instr}
    (hle : b.length + i.length ≤ 256) (hr : g.ReachesBut m p) :
    (g.appendTo b.id a i).ReachesBut m fun x => p x ∨ some a = some x := by
  have hold : ∀ c ∈ g.blocks, ∀ n ∈ c.nodes, n.Reaches m (fun x => p x ∨ some a = some x) (g.appendTo b.id a i) :=
    fun c hc n hn => ((hr c hc n hn).weaken fun _ => .inl).of_grows
      (h.grows_appendTo hb hle (.refl fun _ hown => hown)) fun _ hown => hown
  intro x hx n hn
  rcases (h.mem_appendTo hb a i x).mp hx with rfl | ⟨hxg, -⟩
  · rcases List.mem_append.mp hn with hn | hn
    · exact hold b hb n hn
    · rw [List.mem_singleton.mp hn]
      exact reaches_appended i a
  · exact hold x hxg n hn

theorem Graph.Layout.reaches_opened (h : g.Layout m) (a : Byte) (i : Instr) (hr : g.ReachesBut m p) :
    ((g.addBlock a).appendTo g.nextId a i).ReachesBut m fun x => p x ∨ some a = some x := by
  intro x hx n hn
  rcases (h.mem_opened a i x).mp hx with rfl | hxg
  · rw [List.mem_singleton.mp hn]
    exact reaches_appended i a
  · exact ((hr x hxg n hn).weaken fun _ => .inl).of_grows (h.grows_opened (.refl fun _ hown => hown))
      fun _ hown => by cases hown

/-- A redirected reference leads to the merged block, any other where it led (R229). -/
theorem Graph.Layout.reaches_merge (h : g.Layout m) {b e : Block} (hb : b ∈ g.blocks) (he : e ∈ g.blocks)
    (hid : e.id ≠ b.id) (hs : b.finish = e.start) (hr : g.ReachesBut m p) : (g.merge b e).ReachesBut m p := by
  have hgrows := h.grows_merge hb he hid hs
  have hredirect : ∀ c ∈ g.blocks, ∀ n ∈ c.nodes, (Node.redirect b.id e.id n).Reaches m p (g.merge b e) := by
    intro c hc n hn
    have hreach := hr c hc n hn
    by_cases hjb : n.jump = some b.id
    · have hnew : Node.redirect b.id e.id n = { n with jump := some e.id } := if_pos hjb
      rw [hnew]
      refine ⟨fun ht => absurd (hreach.none ht) (by simp [hjb]), fun a ha => (hreach.target a ha).imp_right fun hor => .inr ?_⟩
      rcases hor with ⟨hnone, -⟩ | ⟨d, hd, hjump, hcov⟩
      · exact absurd hnone (by simp [hjb])
      · obtain ⟨d', hd', hid', hw⟩ := hgrows.walked d hd (hjb.symm.trans hjump)
        exact ⟨d', hd', hid', hw.covers a hcov⟩
    · have hold : Node.redirect b.id e.id n = n := if_neg hjb
      rw [hold]
      refine ⟨hreach.none, fun a ha => (hreach.target a ha).imp_right fun hor => hor.imp_right ?_⟩
      rintro ⟨d, hd, hjump, hcov⟩
      obtain ⟨d', hd', hf⟩ := hgrows.keeps d hd fun heq => hjb (hjump.trans heq.symm)
      exact ⟨d', hd', by rw [hjump, hf.id], hf.covers a hcov⟩
  intro x hx n hn
  rw [Graph.merge_eq_relink] at hx
  obtain ⟨y, hy, rfl⟩ := List.mem_map.mp hx
  obtain ⟨k, hk, rfl⟩ := List.mem_map.mp hn
  rcases (h.mem_joinBlocks he hid y).mp hy with rfl | ⟨hyg, -⟩
  · exact (List.mem_append.mp hk).elim (hredirect b hb k) (hredirect e he k)
  · exact hredirect y hyg k hk

/-- What stands at an address is the instruction decoded there, in whatever block. -/
theorem Graph.Layout.state_eq (h : g.Layout m) {b : Block} (hb : b ∈ g.blocks) {a : Byte} {i : Instr}
    (hl : b.states.getLast? = some (decodedState i a)) {c : Block} (hc : c ∈ g.blocks) {n : Node} (hn : n ∈ c.nodes)
    (hoff : n.state.offset = a) : c = b ∧ n.state = decodedState i a := by
  subst hoff
  have hmem : n.state ∈ c.states := List.mem_map_of_mem hn
  have hlast := List.mem_of_getLast? hl
  refine ⟨h.disjoint c hc b hb n.state.offset ?_ ?_, ?_⟩
  · exact (h.good hc).covers_of_hasNode ((c.hasNode_iff _).mpr ⟨_, hmem, rfl⟩)
  · exact (h.good hb).covers_of_hasNode ((b.hasNode_iff _).mpr ⟨_, hlast, rfl⟩)
  · exact ((h.good hc).decoded _ hmem).eq_decodedState ((h.good hb).decoded _ hlast).1

/-- What `BuildBlock` answers of a target: none where nothing decodes there, else a block that covers it. -/
theorem Runs.build_answer {a : Byte} {s : Option Nat} (run : Runs m (.build a) g g' s) (h : g.Layout m) :
    (s = none ∧ decode (m.bytes a maxLength) = none) ∨ ∃ c ∈ g'.blocks, s = some c.id ∧ c.covers a = true := by
  cases run with
  | found hf =>
    obtain ⟨he, hcov⟩ := Graph.find_eq_some hf
    exact .inr ⟨_, he, rfl, hcov⟩
  | nothing hf hd => exact .inl ⟨rfl, hd⟩
  | @opens _ _ _ i _ hf hd hov after =>
    have hopened := h.opened hd hov
    have hnew := (h.mem_opened a i _).mpr (.inl rfl)
    obtain ⟨c, hc, hr, hw⟩ := (after.layout_grows hopened (Task.ready_opened h a i)).2.walked _ hnew rfl
    exact .inr ⟨c, hc, hr, hw.covers a (hopened.good hnew).covers_start⟩

/-- The reference put into the pending node settles it. -/
theorem Graph.Layout.reaches_link (h : g.Layout m) {b : Block} (hb : b ∈ g.blocks) {cur a : Byte} {i : Instr}
    {s : Option Nat} (hl : b.states.getLast? = some (decodedState i cur)) (ht : (decodedState i cur).target = some a)
    (hs : (s = none ∧ decode (m.bytes a maxLength) = none) ∨ ∃ c ∈ g.blocks, s = some c.id ∧ c.covers a = true)
    (hr : g.ReachesBut m fun x => p x ∨ some cur = some x) : (g.link b.id cur s).ReachesBut m p := by
  have hgrows := g.link_grows b.id cur s none
  intro x hx n hn
  rw [Graph.link_eq_relink] at hx hgrows ⊢
  obtain ⟨c, hc, rfl⟩ := List.mem_map.mp hx
  obtain ⟨k, hk, rfl⟩ := List.mem_map.mp hn
  refine Node.Reaches.of_grows ?_ hgrows fun _ hown => by cases hown
  by_cases hoff : k.state.offset = cur
  · obtain ⟨rfl, hst⟩ := h.state_eq hb hl hc hk hoff
    have hlinked : linkNode c.id cur s c k = { k with jump := s } := if_pos ⟨rfl, hoff⟩
    rw [hlinked]
    refine ⟨fun hno => ?_, fun a' ha' => .inr ?_⟩
    · cases ((congrArg Decoded.target hst).symm.trans hno).symm.trans ht
    · obtain rfl : a' = a := Option.some.inj (ha'.symm.trans ((congrArg Decoded.target hst).trans ht))
      exact hs
  · have hsame : linkNode b.id cur s c k = k := if_neg fun hboth => hoff hboth.2
    rw [hsame]
    exact (hr c hc k hk).weaken fun _ hp => hp.elim id fun heq => absurd (Option.some.inj heq).symm hoff

/-- Every task leaves the references where they should lead, and settles the one that was pending. -/
theorem Runs.reaches {t : Task} {r : Option Nat} (run : Runs m t g g' r) (h : g.Layout m) (ready : t.Ready g)
    (hr : g.ReachesBut m fun x => p x ∨ t.pending = some x) : g'.ReachesBut m p := by
  induction run generalizing p with
  | found | closes | ends | stops => simpa [Task.pending] using hr
  | @nothing g q =>
    intro b hb n hn
    rw [h.addBlock_removeBlock q] at hb
    have hreach := hr b hb n hn
    refine ⟨hreach.none, ?_⟩
    rw [h.addBlock_removeBlock q]
    simpa [Task.pending] using hreach.target
  | @opens g g' q i r hf hd hov after ih =>
    refine ih (h.opened hd hov) (Task.ready_opened h q i) (h.reaches_opened q i ?_)
    simpa [Task.pending] using hr
  | @merges g b e cur hb hf hid hs =>
    obtain ⟨b', hb', hbid, rfl, -⟩ := ready
    obtain rfl := h.eq_of_id hb' hb hbid
    refine h.reaches_merge hb (Graph.find_eq_some hf).1 hid hs ?_
    simpa [Task.pending] using hr
  | @appends g g' b cur i r hb hd hle hov after ih =>
    obtain ⟨b', hb', hbid, rfl, -⟩ := ready
    obtain rfl := h.eq_of_id hb' hb hbid
    refine ih (h.appendTo hb hd hle hov) (Task.ready_appendTo h hb _ i) (h.reaches_appendTo hb hle ?_)
    simpa [Task.pending] using hr
  | @straight g g' id cur i r ht after ih =>
    refine ih h ready fun c hc n hn => (hr c hc n hn).weaken fun htarget hp => hp.imp_right fun heq => ?_
    obtain ⟨b, hb, -, hl⟩ := ready
    obtain ⟨-, hst⟩ := h.state_eq hb hl hc hn (Option.some.inj heq).symm
    exact absurd ((congrArg Decoded.target hst).trans ht) htarget
  | @jumps g g₁ g' id cur a i s r ht target after iht ih =>
    obtain ⟨hl₁, hg₁⟩ := target.layout_grows h trivial
    have hready := Task.ready_linked ready hg₁
    obtain ⟨b, hb, rfl, hl⟩ := ready
    obtain ⟨c, hc, hf⟩ := hg₁.keeps b hb (by simp [Task.own])
    have hreach : g₁.ReachesBut m fun x => p x ∨ some cur = some x := iht h trivial (by simpa [Task.pending] using hr)
    refine ih (hl₁.link b.id cur s) hready ?_
    rw [← hf.id]
    simpa [Task.pending] using hl₁.reaches_link hc (hf.getLast? hl) ht (target.build_answer h) hreach
  | goesOn hs after ih =>
    exact ih h (Task.ready_walk h ready hs) (by simpa [Task.pending] using hr)

theorem Graph.Layout.reachesBut_of_jumpsReach (h : g.Layout m) (hr : g.JumpsReach m) : g.ReachesBut m fun _ => False := by
  intro b hb n hn
  have hn := hr b hb n hn
  rw [Node.target_eq] at hn
  refine ⟨fun ht => by rwa [ht] at hn, fun a ha => .inr ?_⟩
  rw [ha] at hn
  refine hn.1.imp_right ?_
  rintro ⟨c, hc, hjump, hnode⟩
  exact ⟨c, hc, hjump, (h.good hc).covers_of_hasNode hnode⟩

/-- `Graph.JumpsReach` of a finished graph: the block that covers a target has a node there (R232 (d)). -/
theorem Graph.ReachesBut.jumpsReach (hr : g.ReachesBut m fun _ => False) (hmid : g.midTarget = none) : g.JumpsReach m := by
  intro b hb n hn
  have hnone := (Graph.midTarget_eq_none g).mp hmid b hb n hn
  have hreach := hr b hb n hn
  rw [Node.target_eq] at hnone ⊢
  cases ht : n.state.target with
  | none => exact hreach.none ht
  | some a =>
    refine ⟨((hreach.target a ht).resolve_left id).imp_right ?_, hnone a ht⟩
    rintro ⟨c, hc, hjump, hcov⟩
    exact ⟨c, hc, hjump, hnone a ht c hc hcov⟩

end

/-- Settles O56: `Runs.reaches`, with nothing pending before or after the call, and the check of R232 (d) on its end. -/
theorem graphJumpsReachTargets : Obligations.GraphJumpsReachTargets := by
  intro m
  refine ⟨by simp [Graph.JumpsReach, Graph.empty], fun g g' p r hg hjumps h => ?_⟩
  obtain ⟨run, hmid⟩ := runs_of_buildBlock hg h
  refine Graph.ReachesBut.jumpsReach (run.reaches hg trivial ?_) hmid
  simpa [Task.pending] using hg.reachesBut_of_jumpsReach hjumps

/-! ### The worked example (R235) -/

/-- The block of the worked example: the `jnz` at 11 refers back to the block that holds its target 6. -/
def workedBlock : Block where
  id := 0
  start := 0
  length := 14
  nodes :=
    [{ state := decodedState (.movRI (.reg (.gp .r0)) 0) 0, jump := none },
      { state := decodedState (.movRI (.reg (.gp .r1)) 3) 3, jump := none },
      { state := decodedState (.addRM (.reg (.reg (.gp .r0))) (.reg (.reg (.gp .r1)))) 6, jump := none },
      { state := decodedState (.subRI (.reg (.gp .r1)) 1) 8, jump := none },
      { state := decodedState (.jnz 0xFB) 11, jump := some 0 },
      { state := decodedState .hlt 13, jump := none }]

/-- Settles O60: the builder evaluates to `workedBlock`. -/
theorem graphWorkedExample : Obligations.GraphWorkedExample :=
  ⟨{ blocks := [workedBlock], nextId := 1 }, workedBlock, _, rfl, rfl, rfl, rfl, rfl, rfl, rfl⟩

end Sys2Proof.Machine
end

section
/-! PROOFS. The worked encodings of the family files (O6). -/

namespace Sys2Proof.Machine

open Sys2Proof

/-- Settles O6: each decoding is evaluated. -/
theorem workedEncodingsDecode : Obligations.WorkedEncodingsDecode :=
  ⟨rfl, rfl, rfl, rfl, rfl, rfl, rfl, rfl, rfl⟩

end Sys2Proof.Machine
end

section
/-! PROOFS. The statements about stops (spec/60_exceptions.md): every step answers a next state (O17), stops are precise
(O20), which instruction ends in which way (O24, O25), and what is given to the outside (O31). `DataEnds` and `PortIoEnds` say
once how an instruction ends. -/

namespace Sys2Proof.Machine

open Sys2Proof

/-- Settles O17: `exec_next` and `step_next`. -/
theorem everyStepAnswersNext : Obligations.EveryStepAnswersNext := by
  refine ⟨fun i s => ?_, step_next⟩
  obtain ⟨R, h⟩ := exec_next i s
  exact ⟨_, h⟩

/-! ### How an instruction ends (R103, R113, R206, R263) -/

/-- The addresses of a resolved operand are the operand's address, if it has one. -/
theorem placeAddresses_eq {s : State} {o : Operand} {p : Place} (h : resolve s o = some p) :
    placeAddresses p = (operandAddress s o).toList := by
  cases o with
  | na | naInvalid => cases h
  | imm | rel | reg | mem =>
    cases h
    rfl

/-- A breakpoint stands at an address that the instruction, which is no `send` or `recv`, reads or writes as data (R263). -/
def dataHit (s : State) (i : Instr) : Bool := breakpointHit s (dataReads s i) (dataWrites s i)

/-- How an instruction other than `send` and `recv` ends: it fails on an invalid operand; else it pauses on a breakpoint, or
completes and leaves the control state and the environment. -/
inductive DataEnds (i : Instr) (s : State) : Result → Prop
  | fails (wf : i.wellFormed = false) : DataEnds i s (.fail s)
  | pauses (wf : i.wellFormed = true) (hit : dataHit s i = true) : DataEnds i s (.stall (setDebugMode .pause s))
  | completes {t : State} {b : Bool} (wf : i.wellFormed = true) (clear : dataHit s i = false)
      (message : t.message = s.message) (debugger : t.debugger = s.debugger) (env : t.env = s.env)
      (mem : s.mem.wf = true → t.mem.wf = true) : DataEnds i s (.success t b)

/-- An operand that does not resolve is invalid, where it is not absent. -/
theorem eq_naInvalid_of_resolve {s : State} {o : Operand} (hna : o ≠ .na) (h : resolve s o = none) : o = .naInvalid :=
  ((resolve_eq_none s o).mp h).resolve_left hna

theorem wellFormed_of_resolve2 {i : Instr} {s : State} {dst src : Operand} {d b : Place}
    (wf : i.wellFormed = true ↔ dst ≠ .naInvalid ∧ src ≠ .naInvalid) (hd : resolve s dst = some d)
    (hb : resolve s src = some b) : i.wellFormed = true :=
  wf.mpr ⟨ne_naInvalid_of_resolve hd, ne_naInvalid_of_resolve hb⟩

theorem not_wellFormed_of_resolve2 {i : Instr} {s : State} {dst src : Operand}
    (wf : i.wellFormed = true ↔ dst ≠ .naInvalid ∧ src ≠ .naInvalid) (dstNa : dst ≠ .na) (srcNa : src ≠ .na)
    (h : resolve s dst = none ∨ resolve s src = none) : i.wellFormed = false := by
  refine Bool.eq_false_iff.mpr fun hi => ?_
  obtain ⟨hd, hb⟩ := wf.mp hi
  exact h.elim (fun hno => hd (eq_naInvalid_of_resolve dstNa hno)) fun hno => hb (eq_naInvalid_of_resolve srcNa hno)

theorem Shape.dataEnds {i : Instr} {s : State} {R : Result} (h : Shape i s R) (hp : isPort i = false) :
    DataEnds i s R := by
  cases h with
  | mutate2 op dst src writes _ op0 op1 mnem _ _ _ wf dstNa srcNa =>
    rcases exec2_cases op dst src s with ⟨h, hno⟩ | ⟨d, b, hd, hb, hends⟩
    · rw [h]
      exact .fails (not_wellFormed_of_resolve2 wf dstNa srcNa hno)
    · have hdata : dataHit s i = breakpointHit s (placeAddresses d ++ placeAddresses b) (placeAddresses d) := by
        simp [dataHit, dataReads, dataWrites, writes, op0, op1, mnem, placeAddresses_eq hd, placeAddresses_eq hb]
      have hwf := wellFormed_of_resolve2 wf hd hb
      rcases hends with ⟨hit, h⟩ | ⟨clear, h⟩ <;> rw [h]
      · exact .pauses hwf (hdata.trans hit)
      · exact .completes hwf (hdata.trans clear) (by simp) (by simp) (by simp) (writePlace_wf s d _)
  | mutate1 op dst writes _ op0 op1 mnem _ _ _ wf dstNa =>
    rcases exec1_cases op dst s with ⟨h, hno⟩ | ⟨d, hd, hends⟩
    · rw [h]
      exact .fails (Bool.eq_false_iff.mpr fun hi => wf.mp hi (eq_naInvalid_of_resolve dstNa hno))
    · have hdata : dataHit s i = breakpointHit s (placeAddresses d) (placeAddresses d) := by
        simp [dataHit, dataReads, dataWrites, writes, op0, op1, mnem, placeAddresses_eq hd, operandAddress]
      have hwf := wf.mpr (ne_naInvalid_of_resolve hd)
      rcases hends with ⟨hit, h⟩ | ⟨clear, h⟩ <;> rw [h]
      · exact .pauses hwf (hdata.trans hit)
      · exact .completes hwf (hdata.trans clear) (by simp) (by simp) (by simp) (writePlace_wf s d _)
  | compare op dst src writes _ op0 op1 mnem _ _ _ wf dstNa srcNa =>
    rcases execFlagsOnly_cases op dst src s with ⟨h, hno⟩ | ⟨d, b, hd, hb, hends⟩
    · rw [h]
      exact .fails (not_wellFormed_of_resolve2 wf dstNa srcNa hno)
    · have hdata : dataHit s i = breakpointHit s (placeAddresses d ++ placeAddresses b) [] := by
        simp [dataHit, dataReads, dataWrites, writes, op0, op1, mnem, placeAddresses_eq hd, placeAddresses_eq hb]
      have hwf := wellFormed_of_resolve2 wf hd hb
      rcases hends with ⟨hit, h⟩ | ⟨clear, h⟩ <;> rw [h]
      · exact .pauses hwf (hdata.trans hit)
      · exact .completes hwf (hdata.trans clear) rfl rfl rfl id
  | copy dst src writes _ op0 op1 mnem _ _ _ wf dstNa srcNa =>
    rcases execCopy_cases dst src s with ⟨h, hno⟩ | ⟨d, b, hd, hb, hends⟩
    · rw [h]
      exact .fails (not_wellFormed_of_resolve2 wf dstNa srcNa hno)
    · have hdata : dataHit s i = breakpointHit s (placeAddresses b) (placeAddresses d) := by
        simp [dataHit, dataReads, dataWrites, writes, op0, op1, mnem, placeAddresses_eq hd, placeAddresses_eq hb]
      have hwf := wellFormed_of_resolve2 wf hd hb
      rcases hends with ⟨hit, h⟩ | ⟨clear, h⟩ <;> rw [h]
      · exact .pauses hwf (hdata.trans hit)
      · exact .completes hwf (hdata.trans clear) (by simp) (by simp) (by simp) (writePlace_wf s d _)
  | jump cond rel ev writes _ op0 op1 mnem _ _ _ wf =>
    have hdata : dataHit s i = false := by
      simp [dataHit, dataReads, dataWrites, writes, op0, op1, operandAddress, breakpointHit]
    rcases jump_cases cond rel s with ⟨-, h⟩ | ⟨-, h⟩ <;> rw [h]
    · exact .completes wf hdata rfl rfl rfl id
    · exact .completes wf hdata rfl rfl rfl id
  | halt hi =>
    subst hi
    exact .completes rfl rfl rfl rfl rfl id
  | send _ _ _ _ isP => exact absurd (hp.symm.trans isP) Bool.false_ne_true
  | recv _ _ _ isP => exact absurd (hp.symm.trans isP) Bool.false_ne_true

/-- How `send` and `recv` end: they fail on an invalid operand; else they wait, with nothing changed but the message, the
environment and perhaps the debug mode, or complete (R201, R202, R206, R263). -/
inductive PortIoEnds (i : Instr) (s : State) : Result → Prop
  | fails (wf : i.wellFormed = false) : PortIoEnds i s (.fail s)
  | waits {t : State} (wf : i.wellFormed = true) (data : SameData t s) (cycles : t.cycles = s.cycles)
      (complete : t.complete = s.complete) (message : messageWf s.message = true → messageWf t.message = true) :
      PortIoEnds i s (.stall t)
  | completes {t : State} (wf : i.wellFormed = true) (message : messageWf t.message = true)
      (mem : s.mem.wf = true → t.mem.wf = true) : PortIoEnds i s (.success t false)

theorem exists_readOperand {o : Operand} (hna : o ≠ .na) (hinv : o ≠ .naInvalid) (s : State) :
    ∃ v, readOperand s o = some v := by
  refine Option.ne_none_iff_exists'.mp fun hno => hinv (eq_naInvalid_of_resolve (s := s) hna ?_)
  simpa [readOperand] using hno

/-- A message posted as pending is not `Complete`, and a pending receive is posted with size 0 (R204). -/
theorem messageWf_pendingMessage (s : State) {kind : MessageStatus} (port off : Byte) {size : Byte}
    (hk : kind = .sendPending ∨ kind = .receivePending ∧ size = 0) :
    messageWf (pendingMessage s kind port off size) = true := by
  rcases hk with rfl | ⟨rfl, rfl⟩
  · rfl
  · rfl

theorem messageWf_finishPort (w : Nat) (s : State) : messageWf (finishPort w s).message = true := by
  simp [messageWf]

/-- A message posted and its request given out change neither data nor budget. -/
theorem sameData_posted (s : State) (r : PortRequest) (kind : MessageStatus) (port off size : Byte) :
    SameData (asked r (post kind port off size s)) s := by
  constructor <;> simp

theorem sameData_setDebugMode (m : DebugMode) (s : State) : SameData (setDebugMode m s) s := by
  constructor <;> simp

theorem SameData.trans {s t u : State} (h : SameData s t) (h' : SameData t u) : SameData s u :=
  ⟨h.regs.trans h'.regs, h.flags.trans h'.flags, h.mem.trans h'.mem, h.pc.trans h'.pc,
    h.breakpoints.trans h'.breakpoints⟩

theorem sendWindow_portIoEnds {i : Instr} (wf : i.wellFormed = true) (port size off : Byte) (s : State) :
    PortIoEnds i s (sendWindow port size off s) := by
  rcases sendWindow_cases port size off s with ⟨-, h⟩ | ⟨r, -, -, ⟨w, q, -, h⟩ | ⟨-, h⟩⟩ <;> rw [h]
  · exact .waits wf (sameData_setDebugMode _ s) (by simp) (by simp) (by simp)
  · exact .completes wf (messageWf_finishPort _ _) (by simp)
  · refine .waits wf (sameData_posted ..) (by simp) (by simp) fun _ => ?_
    simpa using messageWf_pendingMessage s port off (.inl rfl)

theorem recvWindow_portIoEnds {i : Instr} (wf : i.wellFormed = true) (port off : Byte) (s : State) :
    PortIoEnds i s (recvWindow port off s) := by
  have hpending := messageWf_pendingMessage s port off (.inr ⟨rfl, rfl⟩)
  obtain ⟨r, -, ⟨w, q, -, ⟨-, h⟩ | ⟨-, h⟩⟩ | ⟨-, h⟩⟩ := recvWindow_cases port off s <;> rw [h]
  · exact .waits wf ((sameData_setDebugMode _ _).trans (sameData_posted ..)) (by simp) (by simp) fun _ => by
      simpa using hpending
  · exact .completes wf (messageWf_finishPort _ _) fun hmem => by simpa using Memory.wf_store _ _ _ hmem
  · exact .waits wf (sameData_posted ..) (by simp) (by simp) fun _ => by simpa using hpending

theorem Shape.portIoEnds {i : Instr} {s : State} {R : Result} (h : Shape i s R) (hp : isPort i = true) :
    PortIoEnds i s R := by
  cases hwf : i.wellFormed with
  | false =>
    rw [h.fail_of_not_wellFormed (by simp [hwf])]
    exact .fails hwf
  | true =>
    cases h with
    | mutate2 | mutate1 | compare | copy | jump => exact absurd (‹isPort i = false›.symm.trans hp) Bool.false_ne_true
    | halt hi =>
      subst hi
      exact absurd hp (by decide)
    | send port size win _ _ _ _ _ wf portNa sizeNa =>
      obtain ⟨portOk, sizeOk⟩ := wf.mp hwf
      obtain ⟨p, hport⟩ := exists_readOperand portNa portOk s
      obtain ⟨z, hsize⟩ := exists_readOperand sizeNa sizeOk s
      simpa [sendOperands, hport, hsize] using sendWindow_portIoEnds hwf p z _ s
    | recv port win _ _ _ _ _ wf portNa =>
      obtain ⟨p, hport⟩ := exists_readOperand portNa (wf.mp hwf) s
      simpa [recvOperands, hport] using recvWindow_portIoEnds hwf p _ s

@[simp] theorem conclude_mem (i : Instr) (s : State) (R : Result) : (conclude i s R).mem = R.state.mem := by
  cases R <;> simp [conclude]
@[simp] theorem conclude_message (i : Instr) (s : State) (R : Result) : (conclude i s R).message = R.state.message := by
  cases R <;> simp [conclude]

/-! ### Which instruction ends in which way (R251, R263) -/

/-- A result `fail` is the state as it was, and only of an instruction with an invalid operand. -/
theorem Shape.eq_fail_iff {i : Instr} {s : State} {R : Result} (h : Shape i s R) :
    (∃ t, R = .fail t) ↔ i.wellFormed = false := by
  constructor
  · rintro ⟨t, rfl⟩
    cases hp : isPort i with
    | false =>
      cases h.dataEnds hp with
      | fails wf => exact wf
    | true =>
      cases h.portIoEnds hp with
      | fails wf => exact wf
  · exact fun hwf => ⟨s, h.fail_of_not_wellFormed (by simp [hwf])⟩

theorem conclude_outcome_fail (i : Instr) (s : State) (R : Result) :
    (conclude i s R).outcome = some .fail ↔ ∃ t, R = .fail t := by
  cases R <;> simp [conclude]

theorem conclude_outcome_stall (i : Instr) (s : State) (R : Result) :
    (conclude i s R).outcome = some .stall ↔ ∃ t, R = .stall t := by
  cases R <;> simp [conclude]

theorem conclude_outcome_cases (i : Instr) (s : State) (R : Result) :
    (conclude i s R).outcome = some .success ∨ (conclude i s R).outcome = some .fail ∨
      (conclude i s R).outcome = some .stall := by
  cases R <;> simp [conclude]

/-- Jumps, `hlt` and the two rows without a register operand have no operand that could be invalid (R251). -/
theorem opcode_of_not_wellFormed {i : Instr} (h : i.wellFormed = false) :
    (i.opcode < 32 ∨ 47 < i.opcode) ∧ i.opcode ≠ 51 ∧ i.opcode ≠ 53 := by
  cases i with
  | hlt | jmp | jz | jnz | js | jns | jo | jno | jsl | jsge | jsle | jsg | jul | juge | jule | jug | sendIIM | recvIM =>
    cases h
  | _ => simp [Instr.opcode]

/-- An operand with an address is a memory operand. -/
theorem exists_mem_of_operandAddress {s : State} {o : Operand} {a : Byte} (h : a ∈ operandAddress s o) :
    ∃ m, o = .mem m := by
  cases o with
  | mem m => exact ⟨m, rfl⟩
  | _ => cases h

theorem mem_operands_of_getD {i : Instr} {k : Nat} {m : MemOp} (h : i.operands.getD k .na = .mem m) :
    Operand.mem m ∈ i.operands := by
  rw [List.getD_eq_getElem?_getD] at h
  cases hk : i.operands[k]? with
  | none =>
    rw [hk] at h
    cases h
  | some o =>
    rw [hk] at h
    cases h
    exact List.mem_of_getElem? hk

/-- An instruction accesses data only at the address of a memory operand. -/
theorem exists_mem_of_dataHit {s : State} {i : Instr} (h : dataHit s i = true) : ∃ m, Operand.mem m ∈ i.operands := by
  have haddr : ∃ a, a ∈ operandAddress s (operand0 i) ∨ a ∈ operandAddress s (operand1 i) := by
    simp only [dataHit, breakpointHit, Bool.or_eq_true, List.any_eq_true] at h
    rcases h with ⟨a, ha, -⟩ | ⟨a, ha, -⟩
    · refine ⟨a, ?_⟩
      simp only [dataReads, List.mem_append] at ha
      refine ha.imp (fun h0 => ?_) fun h1 => by simpa using h1
      split at h0
      · cases h0
      · simpa using h0
    · refine ⟨a, .inl ?_⟩
      unfold dataWrites at ha
      split at ha
      · simpa using ha
      · cases ha
  rcases haddr with ⟨a, ha | ha⟩
  · obtain ⟨m, hm⟩ := exists_mem_of_operandAddress ha
    exact ⟨m, mem_operands_of_getD hm⟩
  · obtain ⟨m, hm⟩ := exists_mem_of_operandAddress ha
    exact ⟨m, mem_operands_of_getD hm⟩

/-- The window of a `send` or `recv` is a memory operand. -/
theorem exists_mem_of_isPort {i : Instr} (h : isPort i = true) : ∃ m, Operand.mem m ∈ i.operands := by
  obtain ⟨R, -, shape⟩ := exec_shape i State.reset
  cases shape with
  | mutate2 | mutate1 | compare | copy | jump => exact absurd (‹isPort i = false›.symm.trans h) Bool.false_ne_true
  | halt hi =>
    subst hi
    exact absurd h (by decide)
  | send _ _ win form =>
    refine ⟨win, ?_⟩
    rcases form with ⟨p, z, rfl, -⟩ | ⟨p, v, rfl, -⟩ | ⟨v, z, rfl, -⟩ | ⟨v, u, rfl, -⟩ <;>
      simp [Instr.operands, Instr.args, Arg.operand]
  | recv _ win form =>
    refine ⟨win, ?_⟩
    rcases form with ⟨p, rfl, -⟩ | ⟨v, rfl, -⟩ <;> simp [Instr.operands, Instr.args, Arg.operand]

/-- An instruction that stalls has a memory operand: a breakpoint stands there, or it is the window of a port. -/
theorem Shape.exists_mem_of_stall {i : Instr} {s t : State} (h : Shape i s (.stall t)) :
    ∃ m, Operand.mem m ∈ i.operands := by
  cases hp : isPort i with
  | false =>
    generalize hR : Result.stall t = R at h
    cases h.dataEnds hp with
    | fails | completes => cases hR
    | pauses _ hit => exact exists_mem_of_dataHit hit
  | true => exact exists_mem_of_isPort hp

/-- Only `send` and `recv` write the message. -/
theorem Shape.message_eq {i : Instr} {s : State} {R : Result} (h : Shape i s R) (hp : isPort i = false) :
    R.state.message = s.message := by
  cases h.dataEnds hp with
  | fails => rfl
  | pauses => simp
  | completes _ _ message => exact message

/-- Settles O24: what the outcome says of the result, by `Shape.eq_fail_iff`, `Shape.exists_mem_of_stall` and
`Shape.message_eq`. -/
theorem stopConditionsByInstruction : Obligations.StopConditionsByInstruction := by
  intro i s t h
  obtain ⟨R, hR, shape⟩ := exec_shape i s
  obtain rfl : conclude i s R = t := Host.Outcome.next.inj (hR.symm.trans h)
  refine ⟨conclude_outcome_cases i s R, (conclude_outcome_fail i s R).trans shape.eq_fail_iff, opcode_of_not_wellFormed,
    fun hstall => ?_, fun hmsg => ?_⟩
  · obtain ⟨u, rfl⟩ := (conclude_outcome_stall i s R).mp hstall
    exact shape.exists_mem_of_stall
  · by_contra hp
    exact hmsg ((conclude_message i s R).trans (shape.message_eq (Bool.eq_false_iff.mpr hp)))

theorem dataHit_eq_true_iff (s : State) (i : Instr) :
    dataHit s i = true ↔ (∃ a ∈ dataReads s i, (breakpointAt s a).read = true) ∨
      ∃ a ∈ dataWrites s i, (breakpointAt s a).write = true := by
  simp [dataHit, breakpointHit]

/-- Settles O25: `Shape.dataEnds` of a well-formed instruction, whose two ways to end the breakpoints tell apart. -/
theorem breakpointDecidesStall : Obligations.BreakpointDecidesStall := by
  intro i s hp hwf
  obtain ⟨R, hR, shape⟩ := exec_shape i s
  rw [hR]
  cases shape.dataEnds hp with
  | fails hill => exact absurd (hill.symm.trans hwf) Bool.false_ne_true
  | pauses _ hit =>
    refine ⟨fun _ => ⟨_, rfl, waits_of_setPause i s, by simp, by simp⟩, fun hread hwrite => ?_⟩
    exact absurd (hit.symm.trans ((breakpointHit_eq_false s _ _).mpr ⟨hread, hwrite⟩)) (by decide)
  | completes _ clear message debugger =>
    refine ⟨fun hit => ?_, fun _ _ => ⟨_, rfl, by simp [conclude], by simpa using message, by simpa using debugger⟩⟩
    exact absurd (clear.symm.trans ((dataHit_eq_true_iff s i).mpr hit)) Bool.false_ne_true

/-! ### What is given to the outside (R103, R262; log entries 5 and 11) -/

/-- Settles O31, by the three ways of `DataEnds`: only a success calls the operation hook, and only a pause changes the mode. -/
theorem outputsAreHookCalls : Obligations.OutputsAreHookCalls := by
  intro i s t hp h
  obtain ⟨R, hR, shape⟩ := exec_shape i s
  obtain rfl : conclude i s R = t := Host.Outcome.next.inj (hR.symm.trans h)
  cases shape.dataEnds hp with
  | fails => exact ⟨rfl, rfl, by simp [conclude], fun _ => rfl, by simp [conclude]⟩
  | pauses =>
    refine ⟨by simp, by simp, by simp [conclude], by simp [conclude], fun _ hmode => ?_⟩
    have hne : (setDebugMode .pause s).debugger ≠ s.debugger := fun heq => by
      have := congrArg Debug.mode heq
      simp [hmode] at this
    simpa [conclude, hne] using setDebugMode_outputs .pause (s := s) (t := s) rfl
  | completes _ _ _ debugger env =>
    refine ⟨by simp [env], by simp [env], fun _ => ?_, by simp [conclude], by simp [conclude]⟩
    rw [conclude_success_outputs debugger, env]

/-! ### Stops (R254) -/

/-- An instruction that does not succeed leaves the data and the budget; a `fail` leaves all of the state. -/
theorem Shape.stays {i : Instr} {s : State} {R : Result} (h : Shape i s R) (hno : ∀ t b, R ≠ .success t b) :
    R = .fail s ∨ ∃ t, R = .stall t ∧ SameData t s ∧ t.cycles = s.cycles ∧ t.complete = s.complete := by
  cases hp : isPort i with
  | false =>
    cases h.dataEnds hp with
    | fails => exact .inl rfl
    | pauses => exact .inr ⟨_, rfl, sameData_setDebugMode _ s, by simp, by simp⟩
    | completes => exact absurd rfl (hno _ _)
  | true =>
    cases h.portIoEnds hp with
    | fails => exact .inl rfl
    | waits _ data cycles complete => exact .inr ⟨_, rfl, data, cycles, complete⟩
    | completes => exact absurd rfl (hno _ _)

/-- Settles O20: the stops before execution change `complete` at most; of an executed instruction `Shape.stays` says what it
leaves, and the refund restores the budget. -/
theorem stopsArePrecise : Obligations.StopsArePrecise := by
  intro s t h hno
  rcases step_cases s t h with ⟨-, rfl⟩ | ⟨-, -, rfl⟩ | ⟨i, -, -, -, rfl⟩ | ⟨i, R, -, hf, hc, shape, rfl⟩
  · simp
  · simp
  · simp
  · have hresult := shape.stays fun u b hR => hno ((conclude_outcome_success i _ R).mpr ⟨u, b, hR⟩)
    have hpaused := shape.pausedAtMost
    have hmessage : isPort i = false → R.state.message = s.message := shape.message_eq
    rcases hresult with rfl | ⟨u, rfl, data, cycles, complete⟩
    · exact ⟨rfl, rfl, rfl, rfl, rfl, fun _ => rfl, fun hne => absurd rfl hne, fun hne => absurd rfl hne, .inl rfl⟩
    · have hcycles : u.cycles + cost i = s.cycles := by
        rw [cycles, charge_cycles]
        omega
      refine ⟨data.regs, data.flags, data.mem, data.pc, hpaused.1, fun hne => absurd hcycles hne, fun hne => ⟨rfl, i, hf, ?_⟩,
        fun hne => ⟨rfl, hpaused.2.resolve_left hne⟩, .inr complete⟩
      by_contra hp
      exact hne (hmessage (Bool.eq_false_iff.mpr hp))

end Sys2Proof.Machine
end

section
/-! PROOFS. The statements about the operations of the host (spec/70_reset_and_hazards.md, spec/60_exceptions.md R257): the
invariant of the state (O12, O13), what Create and Reset leave (O10, O11), and refills (O53). -/

namespace Sys2Proof.Machine

open Sys2Proof

/-! ### The invariant -/

/-- What the invariant says of memory and message, every instruction keeps. -/
theorem Shape.keeps_mem_message {i : Instr} {s : State} {R : Result} (h : Shape i s R) (hmem : s.mem.wf = true)
    (hmsg : messageWf s.message = true) : R.state.mem.wf = true ∧ messageWf R.state.message = true := by
  cases hp : isPort i with
  | false =>
    cases h.dataEnds hp with
    | fails => exact ⟨hmem, hmsg⟩
    | pauses => simpa using ⟨hmem, hmsg⟩
    | completes _ _ message _ _ mem => exact ⟨mem hmem, by simpa [message] using hmsg⟩
  | true =>
    cases h.portIoEnds hp with
    | fails => exact ⟨hmem, hmsg⟩
    | waits _ data _ _ message => exact ⟨by simpa [data.mem] using hmem, message hmsg⟩
    | completes _ message mem => exact ⟨mem hmem, message⟩

/-- Settles O12: the connections and breakpoints stay as they are, and what is executed keeps memory and message
(`Shape.keeps_mem_message`). -/
theorem stepKeepsInv : Obligations.StepKeepsInv := by
  rintro s t ⟨hmem, hports, hbreak, hmsg⟩ h
  obtain ⟨tports, tbreak, -⟩ := stepKeepsConnections s t h
  have hdata : t.mem.wf = true ∧ messageWf t.message = true := by
    rcases step_cases s t h with ⟨-, rfl⟩ | ⟨-, -, rfl⟩ | ⟨i, -, -, -, rfl⟩ | ⟨i, R, -, -, -, shape, rfl⟩
    · exact ⟨hmem, hmsg⟩
    · exact ⟨hmem, hmsg⟩
    · exact ⟨hmem, hmsg⟩
    · simpa using shape.keeps_mem_message hmem hmsg
  exact ⟨hdata.1, tports ▸ hports, tbreak ▸ hbreak, hdata.2⟩

/-- The loop of `Run` keeps the invariant: it is steps, or the state as it is. -/
theorem runLoop_keepsInv (n : Nat) {s : State} (h : s.Inv) : (runLoop n s).Inv := by
  induction n generalizing s with
  | zero => exact h
  | succ n ih =>
    obtain ⟨t, ht⟩ := step_next s
    rw [runLoop_succ _ _ _ ht]
    split
    · exact ih (stepKeepsInv s t h ht)
    · exact stepKeepsInv s t h ht

theorem create_inv (b : Binary) : (create b).Inv :=
  ⟨wf_memoryFrom _ 0 (by simp), rfl, rfl, rfl⟩

theorem resetTo_keepsInv (b : Binary) {s : State} (h : s.Inv) : (resetTo b s).Inv := by
  obtain ⟨-, hports, hbreak, -⟩ := h
  obtain ⟨hmem, -, -, hmsg⟩ := create_inv b
  exact ⟨hmem, hports, hbreak, hmsg⟩

/-- A refill touches only the wait of the message (R257). -/
theorem setCycles_keepsInv (n : Nat) {s : State} (h : s.Inv) : (setCycles n s).Inv := by
  unfold setCycles
  split
  · exact h
  · exact h

theorem setPort_keepsInv (port : Byte) (c : Option Nat) {s : State} (h : s.Inv) : (setPort port c s).Inv := by
  obtain ⟨hmem, hports, hbreak, hmsg⟩ := h
  simpa [setPort, State.Inv] using ⟨hmem, sparseWf_put _ _ _ c hports port.isLt, hbreak, hmsg⟩

theorem disconnect_keepsInv (port : Byte) {s : State} (h : s.Inv) : (disconnect port s).Inv := by
  unfold disconnect
  split
  · exact h
  · exact setPort_keepsInv port none h

theorem setBreakpoint_keepsInv (a : Byte) (bits : Access) {s : State} (h : s.Inv) : (setBreakpoint a bits s).Inv := by
  obtain ⟨hmem, hports, hbreak, hmsg⟩ := h
  simpa [setBreakpoint, State.Inv] using ⟨hmem, hports, sparseWf_put _ _ _ bits hbreak a.isLt, hmsg⟩

theorem setDebugMode_keepsInv (m : DebugMode) {s : State} (h : s.Inv) : (setDebugMode m s).Inv := by
  simpa [State.Inv] using h

/-- Settles O13, call by call. -/
theorem hostOperationsKeepInv : Obligations.HostOperationsKeepInv := by
  refine ⟨create_inv, fun c s P h hcall => ?_⟩
  obtain rfl : callAlive c s = P := Except.ok.inj hcall
  cases c with
  | reset b => exact resetTo_keepsInv b h
  | setCycles n => exact setCycles_keepsInv n h
  | addProcessingTime q => exact setCycles_keepsInv _ h
  | connect port connection => exact setPort_keepsInv port _ h
  | disconnect port => exact disconnect_keepsInv port h
  | run => exact runLoop_keepsInv _ h
  | setBreakpoint a bits => exact setBreakpoint_keepsInv a bits h
  | setHooks hooks => exact h
  | pause => exact setDebugMode_keepsInv .pause h
  | resume => exact setDebugMode_keepsInv .continue h
  | destroy => exact trivial

/-! ### Create and Reset (R281, R282) -/

/-- A zeroed image leaves memory empty (log entry 1). -/
theorem memoryFrom_replicate (n a : Nat) : memoryFrom a (List.replicate n unlistedByte) = [] := by
  induction n generalizing a with
  | zero => rfl
  | succ n ih => rw [List.replicate_succ, memoryFrom, if_pos rfl, ih]

/-- Settles O11: the two states differ at most in how their memory is written, and `create_inv` gives the invariant. -/
theorem resetIsCreateOfZeroImage : Obligations.ResetIsCreateOfZeroImage := by
  have hmem : memoryFrom 0 Binary.zero.data.toList = [] := by
    rw [show Binary.zero.data.toList = List.replicate 256 unlistedByte from Vector.toList_replicate]
    exact memoryFrom_replicate 256 0
  have hreset : State.reset = create Binary.zero := by
    unfold create
    rw [hmem]
    rfl
  exact ⟨hreset, hreset ▸ create_inv Binary.zero⟩

theorem create_read (b : Binary) (a : Byte) : (create b).mem.read a = b.data[a.toNat] := by
  have hlt : a.toNat < b.data.toList.length := by simpa using a.isLt
  rw [Memory.read, create, look_memoryFrom _ 0 _ (Nat.zero_le _), Nat.sub_zero, List.getD_eq_getElem _ _ hlt]
  simp

theorem Regs.zero_get (g : GReg) : Regs.zero.get g = 0 := by cases g <;> rfl

/-- Settles O10: both states hold the values of `create`, and `Reset` takes connections and debug state over. -/
theorem createAndResetValues : Obligations.CreateAndResetValues := by
  intro b s
  refine ⟨?_, fun _ => rfl, rfl, rfl, fun _ => rfl, rfl, rfl⟩
  rintro t (rfl | rfl)
  · exact ⟨Regs.zero_get, rfl, rfl, create_read b, rfl, rfl, rfl⟩
  · exact ⟨Regs.zero_get, rfl, rfl, create_read b, rfl, rfl, rfl⟩

/-! ### Refills (R257) -/

/-- A refill pays the residual wait from the new budget and keeps of it what that does not pay. -/
theorem setCycles_eq (n : Nat) (s : State) :
    setCycles n s =
      { s with
        complete := false
        cycles := n - s.message.wait
        message := { s.message with wait := s.message.wait - n } } := by
  unfold setCycles
  split
  · next hle => rw [Nat.sub_eq_zero_of_le hle]
  · next hlt => rw [Nat.sub_eq_zero_of_le (Nat.le_of_not_le hlt)]

theorem cyclesOfSeconds_eq (q : Rat) : cyclesOfSeconds q = (q * 400).floor.toNat := by
  norm_num [cyclesOfSeconds, clockRate]

/-- Settles O53: both refills are `setCycles`, which `setCycles_eq` says whole. -/
theorem refillPaysWaitFirst : Obligations.RefillPaysWaitFirst := by
  intro s t n q
  simp only [addProcessingTime, setCycles_eq, cyclesOfSeconds_eq]
  refine ⟨?_, ?_, ?_⟩
  · rintro rfl
    exact ⟨rfl, rfl, rfl⟩
  · rintro rfl
    exact ⟨rfl, rfl, rfl⟩
  · rintro (rfl | rfl)
    · exact ⟨rfl, rfl, rfl, rfl, rfl, rfl⟩
    · exact ⟨rfl, rfl, rfl, rfl, rfl, rfl⟩

end Sys2Proof.Machine
end

section
/-! PROOFS. The statement about resumption (spec/60_exceptions.md R255): a refilled or resumed processor goes on where it
stopped (O21), for which the model's record of the stop must not be read. -/

namespace Sys2Proof.Machine

open Sys2Proof

/-! ### The record of the outcome is not read (log entry 5) -/

/-- The state with another record of how the latest iteration ended. -/
def State.withOutcome (o : Option RunOutcome) (s : State) : State := { s with outcome := o }

/-- A result whose state has another record. -/
def Result.withOutcome (o : Option RunOutcome) : Result → Result
  | .success t b => .success (t.withOutcome o) b
  | .stall t => .stall (t.withOutcome o)
  | .fail t => .fail (t.withOutcome o)

section
variable (o : Option RunOutcome) (s : State)

@[simp] theorem withOutcome_message : (s.withOutcome o).message = s.message := rfl
@[simp] theorem withOutcome_mem : (s.withOutcome o).mem = s.mem := rfl
@[simp] theorem withOutcome_cycles : (s.withOutcome o).cycles = s.cycles := rfl
@[simp] theorem withOutcome_flags : (s.withOutcome o).flags = s.flags := rfl

theorem sameData_withOutcome : SameData (s.withOutcome o) s := ⟨rfl, rfl, rfl, rfl, rfl⟩

@[simp] theorem resolve_withOutcome (x : Operand) : resolve (s.withOutcome o) x = resolve s x :=
  (sameData_withOutcome o s).resolve_eq x

@[simp] theorem readPlace_withOutcome (p : Place) : readPlace (s.withOutcome o) p = readPlace s p :=
  (sameData_withOutcome o s).readPlace_eq p

@[simp] theorem readOperand_withOutcome (x : Operand) : readOperand (s.withOutcome o) x = readOperand s x :=
  (sameData_withOutcome o s).readOperand_eq x

@[simp] theorem effectiveAddress_withOutcome (x : MemOp) : effectiveAddress (s.withOutcome o) x = effectiveAddress s x :=
  (sameData_withOutcome o s).effectiveAddress_eq x

@[simp] theorem breakpointHit_withOutcome (reads writes : List Byte) :
    breakpointHit (s.withOutcome o) reads writes = breakpointHit s reads writes := rfl

@[simp] theorem answerOf_withOutcome (r : PortRequest) : answerOf r (s.withOutcome o) = answerOf r s := rfl

@[simp] theorem writePlace_withOutcome (p : Place) (v : Byte) :
    writePlace (s.withOutcome o) p v = (writePlace s p v).withOutcome o := by
  cases p with
  | value => rfl
  | cell => rfl
  | register r => cases r <;> rfl

@[simp] theorem emitIf_withOutcome (hook : Bool) (out : Output) :
    emitIf hook out (s.withOutcome o) = (emitIf hook out s).withOutcome o := by
  cases hook <;> rfl

@[simp] theorem setDebugMode_withOutcome (m : DebugMode) :
    setDebugMode m (s.withOutcome o) = (setDebugMode m s).withOutcome o := by
  unfold setDebugMode
  split
  · next h => rw [if_pos (show s.debugger.mode = m from h)]
  · next h =>
    rw [if_neg (show ¬s.debugger.mode = m from h), ← emitIf_withOutcome]
    rfl

@[simp] theorem post_withOutcome (kind : MessageStatus) (port off size : Byte) :
    post kind port off size (s.withOutcome o) = (post kind port off size s).withOutcome o := by
  unfold post
  rw [withOutcome_message]
  split
  · rfl
  · rfl

@[simp] theorem asked_withOutcome (r : PortRequest) : asked r (s.withOutcome o) = (asked r s).withOutcome o := rfl

@[simp] theorem acceptPayload_withOutcome (off : Byte) (payload : List Byte) :
    acceptPayload off payload (s.withOutcome o) = (acceptPayload off payload s).withOutcome o := rfl

theorem applyWait_withOutcome (w : Nat) : applyWait w (s.withOutcome o) = (applyWait w s).withOutcome o := by
  by_cases h : w + s.message.wait ≤ s.cycles
  · rw [applyWait, applyWait, withOutcome_message, withOutcome_cycles, if_pos h, if_pos h]
    rfl
  · rw [applyWait, applyWait, withOutcome_message, withOutcome_cycles, if_neg h, if_neg h]
    rfl

@[simp] theorem finishPort_withOutcome (w : Nat) : finishPort w (s.withOutcome o) = (finishPort w s).withOutcome o :=
  applyWait_withOutcome o { s with message := { s.message with status := .idle } } w

theorem conclude_withOutcome (i : Instr) (R : Result) :
    conclude i (s.withOutcome o) (R.withOutcome o) = conclude i s R := by
  cases R with
  | success t b =>
    exact congrArg
      (fun u : State => { u with
        pc := if b then u.pc else s.pc + BitVec.ofNat 8 i.length
        outcome := some .success })
      (emitIf_withOutcome o t _ _)
  | stall => rfl
  | fail => rfl

/-! Every template carries the record along. -/

theorem exec2_withOutcome (op : Byte → Byte → Byte × Byte) (dst src : Operand) :
    exec2 op dst src (s.withOutcome o) = (exec2 op dst src s).withOutcome o := by
  simp only [exec2, resolve_withOutcome, breakpointHit_withOutcome, readPlace_withOutcome, writePlace_withOutcome,
    setDebugMode_withOutcome]
  split
  · split <;> rfl
  · rfl

theorem exec1_withOutcome (op : Byte → Byte × Byte) (dst : Operand) :
    exec1 op dst (s.withOutcome o) = (exec1 op dst s).withOutcome o := by
  simp only [exec1, resolve_withOutcome, breakpointHit_withOutcome, readPlace_withOutcome, writePlace_withOutcome,
    setDebugMode_withOutcome]
  split
  · split <;> rfl
  · rfl

theorem execFlagsOnly_withOutcome (op : Byte → Byte → Byte × Byte) (dst src : Operand) :
    execFlagsOnly op dst src (s.withOutcome o) = (execFlagsOnly op dst src s).withOutcome o := by
  simp only [execFlagsOnly, resolve_withOutcome, breakpointHit_withOutcome, readPlace_withOutcome,
    setDebugMode_withOutcome]
  split
  · split <;> rfl
  · rfl

theorem execCopy_withOutcome (dst src : Operand) :
    execCopy dst src (s.withOutcome o) = (execCopy dst src s).withOutcome o := by
  simp only [execCopy, resolve_withOutcome, breakpointHit_withOutcome, readPlace_withOutcome, writePlace_withOutcome,
    setDebugMode_withOutcome]
  split
  · split <;> rfl
  · rfl

theorem jump_withOutcome (cond : Byte → Bool) (rel : Byte) :
    jump cond rel (s.withOutcome o) = (jump cond rel s).withOutcome o := by
  rcases jump_cases cond rel s with ⟨hc, h⟩ | ⟨hc, h⟩
  · rw [h, jump, withOutcome_flags, if_pos hc]
    rfl
  · rw [h, jump, withOutcome_flags, if_neg (by simp [hc])]
    rfl

theorem sendWindow_withOutcome (port size off : Byte) :
    sendWindow port size off (s.withOutcome o) = (sendWindow port size off s).withOutcome o := by
  simp only [sendWindow, breakpointHit_withOutcome, setDebugMode_withOutcome, post_withOutcome, withOutcome_message,
    withOutcome_mem, answerOf_withOutcome, asked_withOutcome, finishPort_withOutcome]
  split
  · rfl
  · split <;> rfl

theorem recvWindow_withOutcome (port off : Byte) :
    recvWindow port off (s.withOutcome o) = (recvWindow port off s).withOutcome o := by
  simp only [recvWindow, breakpointHit_withOutcome, setDebugMode_withOutcome, post_withOutcome, withOutcome_message,
    answerOf_withOutcome, asked_withOutcome, acceptPayload_withOutcome, finishPort_withOutcome]
  split
  · split <;> rfl
  · rfl
  · rfl
  · rfl

theorem sendOperands_withOutcome (port size : Operand) (win : MemOp) :
    sendOperands port size win (s.withOutcome o) = (sendOperands port size win s).withOutcome o := by
  simp only [sendOperands, readOperand_withOutcome, effectiveAddress_withOutcome, sendWindow_withOutcome]
  split <;> rfl

theorem recvOperands_withOutcome (port : Operand) (win : MemOp) :
    recvOperands port win (s.withOutcome o) = (recvOperands port win s).withOutcome o := by
  simp only [recvOperands, readOperand_withOutcome, effectiveAddress_withOutcome, recvWindow_withOutcome]
  split <;> rfl

end

/-- Every instruction is one template, which carries the record along. -/
theorem exec_carriesOutcome (i : Instr) :
    ∃ T : State → Result, (∀ u, exec i u = .next (conclude i u (T u))) ∧
      ∀ o s, T (s.withOutcome o) = (T s).withOutcome o := by
  cases i with
  | addRI | addRM | subRI | subRM | mulRI | mulRM | sdivRI | sdivRM | udivRI | udivRM | smodRI | smodRM | umodRI | umodRM
  | shlRI | shlRM | shrRI | shrRM | xorRI | xorRM | orRI | orRM | andRI | andRM =>
    exact ⟨_, fun _ => rfl, fun o s => exec2_withOutcome o s _ _ _⟩
  | not | neg => exact ⟨_, fun _ => rfl, fun o s => exec1_withOutcome o s _ _⟩
  | cmpRI | cmpRM => exact ⟨_, fun _ => rfl, fun o s => execFlagsOnly_withOutcome o s _ _ _⟩
  | movRI | movRM => exact ⟨_, fun _ => rfl, fun o s => execCopy_withOutcome o s _ _⟩
  | jmp | jz | jnz | js | jns | jo | jno | jsl | jsge | jsle | jsg | jul | juge | jule | jug =>
    exact ⟨_, fun _ => rfl, fun o s => jump_withOutcome o s _ _⟩
  | hlt => exact ⟨fun u => .success { u with cycles := 0 } false, fun _ => rfl, fun _ _ => rfl⟩
  | sendRRM | sendRIM | sendIRM | sendIIM => exact ⟨_, fun _ => rfl, fun o s => sendOperands_withOutcome o s _ _ _⟩
  | recvRM | recvIM => exact ⟨_, fun _ => rfl, fun o s => recvOperands_withOutcome o s _ _⟩

theorem exec_withOutcome (i : Instr) (o : Option RunOutcome) (s : State) : exec i (s.withOutcome o) = exec i s := by
  obtain ⟨T, hT, carries⟩ := exec_carriesOutcome i
  rw [hT, hT, carries, conclude_withOutcome]

/-- A step does not read how the one before ended. -/
theorem step_withOutcome (o : Option RunOutcome) (s : State) : step (s.withOutcome o) = step s := by
  have hexec : ∀ i, exec i (charge (cost i) (s.withOutcome o)) = exec i (charge (cost i) s) := fun i =>
    exec_withOutcome i o (charge (cost i) s)
  unfold step
  rw [show fetch (s.withOutcome o) = fetch s from rfl, show (s.withOutcome o).debugger = s.debugger from rfl,
    show (s.withOutcome o).cycles = s.cycles from rfl]
  split
  · rfl
  · cases fetch s with
    | none => rfl
    | some i =>
      dsimp only
      rw [hexec i]
      rfl

theorem run_withOutcome (o : Option RunOutcome) (s : State) : run (s.withOutcome o) = run s := by
  obtain ⟨t, ht⟩ := step_next s
  have hcycles : (s.withOutcome o).cycles = s.cycles := rfl
  rw [run, run, hcycles, runLoop_succ _ _ _ ht, runLoop_succ _ _ _ ((step_withOutcome o s).trans ht)]

/-! ### Resumption (R255) -/

section
variable {s t : State}

theorem step_budgetExhausted (h : step s = .next t) (ht : t.outcome = some .budgetExhausted) : t = stopBudget s := by
  rcases step_cases s t h with ⟨-, rfl⟩ | ⟨-, -, rfl⟩ | ⟨i, -, -, -, rfl⟩ | ⟨i, R, -, -, -, -, rfl⟩
  · cases ht
  · cases ht
  · rfl
  · cases R <;> cases ht

theorem step_invalidOpcode (h : step s = .next t) (ht : t.outcome = some .invalidOpcode) :
    s.debugger.mode ≠ .pause ∧ fetch s = none ∧ t = stopInvalid s := by
  rcases step_cases s t h with ⟨-, rfl⟩ | h | ⟨i, -, -, -, rfl⟩ | ⟨i, R, -, -, -, -, rfl⟩
  · cases ht
  · exact h
  · cases ht
  · cases R <;> cases ht

/-- A step that fails executed an ill-formed instruction and left all but budget and `complete`. -/
theorem step_fail (h : step s = .next t) (ht : t.outcome = some .fail) :
    ∃ i, s.debugger.mode ≠ .pause ∧ fetch s = some i ∧ i.wellFormed = false ∧ t = concludeFail (charge (cost i) s) := by
  rcases step_cases s t h with ⟨-, rfl⟩ | ⟨-, -, rfl⟩ | ⟨i, -, -, -, rfl⟩ | ⟨i, R, hm, hf, -, shape, rfl⟩
  · cases ht
  · cases ht
  · cases ht
  · have hwf := shape.eq_fail_iff.mp ((conclude_outcome_fail i _ R).mp ht)
    exact ⟨i, hm, hf, hwf, by rw [shape.fail_of_not_wellFormed (by simp [hwf])]; rfl⟩

/-- A refilled processor has its data, and so its next instruction, as they were. -/
theorem setCycles_frame (n : Nat) (s : State) :
    (setCycles n s).regs = s.regs ∧ (setCycles n s).flags = s.flags ∧ (setCycles n s).mem = s.mem ∧
      (setCycles n s).pc = s.pc ∧ (setCycles n s).debugger = s.debugger ∧ fetch (setCycles n s) = fetch s := by
  rw [setCycles_eq]
  exact ⟨rfl, rfl, rfl, rfl, rfl, rfl⟩

theorem continue_of_ne_pause {m : DebugMode} (h : m ≠ .pause) : m = .continue := by
  cases m with
  | pause => exact absurd rfl h
  | _ => rfl

/-- A refill forgets the stop but for its record. -/
theorem setCycles_stopBudget (n : Nat) (s : State) :
    setCycles n (stopBudget s) = (setCycles n s).withOutcome (some .budgetExhausted) := by
  rw [setCycles_eq, setCycles_eq]
  rfl

/-- An unassigned opcode stops a refilled processor again. -/
theorem stop_again_invalidOpcode (n : Nat) (hm : t.debugger.mode ≠ .pause) (hf : fetch t = none) :
    step (setCycles n t) = .next (stopInvalid (setCycles n t)) := by
  obtain ⟨-, -, -, -, hdebug, hfetch⟩ := setCycles_frame n t
  exact step_of_fetch_none (by rw [hdebug]; exact continue_of_ne_pause hm) (hfetch.trans hf)

/-- A failed instruction, paid again, fails again. -/
theorem stop_again_fail (n : Nat) {i : Instr} (hm : t.debugger.mode ≠ .pause) (hf : fetch t = some i)
    (hwf : i.wellFormed = false) (hc : cost i ≤ (setCycles n t).cycles) :
    step (setCycles n t) = .next (concludeFail (charge (cost i) (setCycles n t))) := by
  obtain ⟨-, -, -, -, hdebug, hfetch⟩ := setCycles_frame n t
  rw [step_of_fetch_some (by rw [hdebug]; exact continue_of_ne_pause hm) (hfetch.trans hf) hc,
    exec_of_not_wellFormed hwf]

end

/-- Settles O21, stop by stop. -/
theorem resumptionAfterStops : Obligations.ResumptionAfterStops := by
  intro s t h
  refine ⟨fun ht n q => ?exhausted, fun ht => ?stalled, fun n ht hpaid => ?stays⟩
  case exhausted =>
    obtain rfl := step_budgetExhausted h ht
    have refilled : ∀ k, run (setCycles k (stopBudget s)) = run (setCycles k s) := fun k => by
      rw [setCycles_stopBudget, run_withOutcome]
    exact ⟨refilled n, refilled _⟩
  case stalled =>
    obtain ⟨-, -, hmem, hpc, -, hcycles, -⟩ := stopsArePrecise s t h (by simp [ht])
    have hsame : t.cycles = s.cycles := by
      by_contra hne
      exact absurd (ht.symm.trans (hcycles hne)) (by decide)
    refine ⟨?_, by simpa [resume] using hsame, resume_mode t⟩
    simp [fetch, resume, hmem, hpc]
  case stays =>
    obtain ⟨hregs, hflags, hmem, hpc, -⟩ := setCycles_frame n t
    rcases ht with ht | ht
    · obtain ⟨hm, hf, rfl⟩ := step_invalidOpcode h ht
      exact ⟨_, stop_again_invalidOpcode n hm hf, ht.symm, rfl, hregs, hflags, hmem, hpc⟩
    · obtain ⟨i, hm, hf, hwf, rfl⟩ := step_fail h ht
      exact ⟨_, stop_again_fail n hm hf hwf (hpaid i hf), ht.symm, rfl, hregs, hflags, hmem, hpc⟩

end Sys2Proof.Machine
end
